-- ==== Sys2Proof/Word.lean ====
section
/-! DEFINITION. The word types of the machine and their plainest arithmetic (spec/00_scope.md R8, R9). -/

namespace Sys2Proof

/-- A general register, a timer, a byte of memory or the immediate NN (spec/00_scope.md R6: V_WIDTH, TIMER_WIDTH). -/
abbrev Byte := BitVec 8

/-- The index register, the program counter, a stack entry or an instruction word
(spec/00_scope.md R6: I_WIDTH, PC_WIDTH, STACK_ENTRY_WIDTH, WORD_WIDTH). -/
abbrev Word := BitVec 16

/-- The 12-bit address field NNN of an instruction word (spec/30_encoding.md R91). -/
abbrev Addr := BitVec 12

/-- `zext_16`: zero-extension to 16 bits (spec/00_scope.md R9). -/
abbrev zext16 {n : Nat} (b : BitVec n) : Word := b.setWidth 16

/-- `bool(c)` of spec/00_scope.md R9, as the byte a flag write stores. -/
abbrev flagByte (c : Bool) : Byte := if c then 1#8 else 0#8

end Sys2Proof
end

