-- ==== Sys2Proof/Config.lean ====
section
/-! DEFINITION. What is fixed for one machine: the fixed sizes (spec/00_scope.md R6), the parameters with their decided
values (R7), the default glyph table (spec/20_memory.md R62) and the free draw of CXNN (spec/41_arithmetic.md R172). -/

namespace Sys2Proof

/-- ADDR_POLICY (spec/00_scope.md R7): what an address at or above 4096 does (spec/20_memory.md R63). -/
inductive AddrPolicy
  /-- It raises AddressViolation. -/
  | reject
  /-- It is taken modulo 4096. -/
  | wrap
deriving DecidableEq, Repr

/-- GLYPH_WRITE_POLICY (spec/00_scope.md R7): what a store into 0x000 to 0x04F does (spec/20_memory.md R64). -/
inductive GlyphWritePolicy
  /-- It raises GlyphWriteViolation. -/
  | fault
  /-- The store is dropped. -/
  | ignore
  /-- The store succeeds. -/
  | write
deriving DecidableEq, Repr

/-- TIMER_COUPLING (spec/00_scope.md R7): who decrements the timers (spec/40_engine.md R127, R130). -/
inductive TimerCoupling
  /-- Every cycle that does not abort. -/
  | perCycle
  /-- Only the host operation `tick_timers()`. -/
  | decoupled
deriving DecidableEq, Repr

/-- SHIFT_SOURCE (spec/00_scope.md R7): which register 8XY6 and 8XYE shift (spec/41_arithmetic.md R169, R171). -/
inductive ShiftSource
  | vx
  | vy
deriving DecidableEq, Repr

namespace Config

/-- MEM_SIZE: addresses 0x000 to 0xFFF (spec/00_scope.md R6). -/
abbrev memSize : Nat := 0x1000
/-- GLYPH_BASE (spec/00_scope.md R6). -/
abbrev glyphBase : Nat := 0x000
/-- GLYPH_SIZE: 16 glyphs of 5 bytes, 0x000 to 0x04F (spec/00_scope.md R6). -/
abbrev glyphSize : Nat := 80
/-- The bytes of one glyph (spec/20_memory.md R61). -/
abbrev glyphHeight : Nat := 5
/-- PROGRAM_ORIGIN: where programs start and PC is after reset (spec/00_scope.md R6). -/
abbrev programOrigin : Nat := 0x200
/-- STACK_DEPTH (spec/00_scope.md R6). -/
abbrev stackDepth : Nat := 16
/-- FB_W (spec/00_scope.md R6). -/
abbrev fbWidth : Nat := 64
/-- FB_H (spec/00_scope.md R6). -/
abbrev fbHeight : Nat := 32

/-- The glyphs of the digits 0 to 7, top row first (spec/20_memory.md R62). -/
def font0to7 : List Byte :=
  [0xF0, 0x90, 0x90, 0x90, 0xF0] ++
  [0x20, 0x60, 0x20, 0x20, 0x70] ++
  [0xF0, 0x10, 0xF0, 0x80, 0xF0] ++
  [0xF0, 0x10, 0xF0, 0x10, 0xF0] ++
  [0x90, 0x90, 0xF0, 0x10, 0x10] ++
  [0xF0, 0x80, 0xF0, 0x10, 0xF0] ++
  [0xF0, 0x80, 0xF0, 0x90, 0xF0] ++
  [0xF0, 0x10, 0x20, 0x40, 0x40]

/-- The glyphs of the digits 8 to F, top row first (spec/20_memory.md R62). -/
def font8toF : List Byte :=
  [0xF0, 0x90, 0xF0, 0x90, 0xF0] ++
  [0xF0, 0x90, 0xF0, 0x10, 0xF0] ++
  [0xF0, 0x90, 0xF0, 0x90, 0x90] ++
  [0xE0, 0x90, 0xE0, 0x90, 0xE0] ++
  [0xF0, 0x80, 0x80, 0x80, 0xF0] ++
  [0xE0, 0x90, 0x90, 0x90, 0xE0] ++
  [0xF0, 0x80, 0xF0, 0x80, 0xF0] ++
  [0xF0, 0x80, 0xF0, 0x80, 0x80]

/-- The decided value of GLYPH_TABLE (spec/20_memory.md R62, 92_eei_decisions.md D6). -/
def standardFont : Vector Byte glyphSize := ⟨(font0to7 ++ font8toF).toArray, by decide⟩

/-- The draw of CXNN: `draw_byte()` of spec/00_scope.md R10, "a value the environment chooses freely". It has no body, so no
proof can see a value of it; the n-th execution of CXNN draws `draw n` (log entry 2: DESIGN CHOICE, safe). -/
opaque draw : Nat → Byte

end Config

/-- The parameters of spec/00_scope.md R7 but the draw ("a model takes each as an argument"). -/
structure Params where
  addrPolicy       : AddrPolicy
  glyphWritePolicy : GlyphWritePolicy
  glyphTable       : Vector Byte Config.glyphSize
  timerCoupling    : TimerCoupling
  shiftSource      : ShiftSource
deriving DecidableEq, Repr

/-- The values spec/00_scope.md R7 decides for this hardware. -/
def Config.decided : Params where
  addrPolicy       := .reject
  glyphWritePolicy := .fault
  glyphTable       := standardFont
  timerCoupling    := .perCycle
  shiftSource      := .vx

end Sys2Proof
end

