-- ==== Sys2Proof/Syntax.lean ====
section
/-! DEFINITION. The instruction set, whole: one constructor per row of spec/opcode_table.json (spec/30_encoding.md R96).
Operand types are exactly as wide as the fields of R91, so every term of `Instr` is an instruction the encoding admits. -/

namespace Sys2Proof

/-- A register selector X or Y: V0 to VF, VF included (spec/10_state.md R21). -/
abbrev Reg := Fin 16

/-- The flag register VF (spec/10_state.md R22). -/
abbrev VF : Reg := 15

inductive Instr
  /-- 00E0 CLS -/
  | cls
  /-- 00EE RET -/
  | ret
  /-- 1NNN JP addr -/
  | jp (nnn : Addr)
  /-- 2NNN CALL addr -/
  | call (nnn : Addr)
  /-- 3XNN SE Vx, byte -/
  | seImm (x : Reg) (nn : Byte)
  /-- 4XNN SNE Vx, byte -/
  | sneImm (x : Reg) (nn : Byte)
  /-- 5XY0 SE Vx, Vy -/
  | seReg (x y : Reg)
  /-- 6XNN LD Vx, byte -/
  | ldImm (x : Reg) (nn : Byte)
  /-- 7XNN ADD Vx, byte -/
  | addImm (x : Reg) (nn : Byte)
  /-- 8XY0 LD Vx, Vy -/
  | ldReg (x y : Reg)
  /-- 8XY1 OR Vx, Vy -/
  | orReg (x y : Reg)
  /-- 8XY2 AND Vx, Vy -/
  | andReg (x y : Reg)
  /-- 8XY3 XOR Vx, Vy -/
  | xorReg (x y : Reg)
  /-- 8XY4 ADD Vx, Vy -/
  | addReg (x y : Reg)
  /-- 8XY5 SUB Vx, Vy -/
  | subReg (x y : Reg)
  /-- 8XY6 SHR Vx {, Vy} -/
  | shr (x y : Reg)
  /-- 8XY7 SUBN Vx, Vy -/
  | subnReg (x y : Reg)
  /-- 8XYE SHL Vx {, Vy} -/
  | shl (x y : Reg)
  /-- 9XY0 SNE Vx, Vy -/
  | sneReg (x y : Reg)
  /-- ANNN LD I, addr -/
  | ldI (nnn : Addr)
  /-- BNNN JP V0, addr -/
  | jpV0 (nnn : Addr)
  /-- CXNN RND Vx, byte -/
  | rnd (x : Reg) (nn : Byte)
  /-- DXYN DRW Vx, Vy, nibble; n counts sprite rows, 0 to 15 -/
  | drw (x y : Reg) (n : Fin 16)
  /-- EX9E SKP Vx -/
  | skp (x : Reg)
  /-- EXA1 SKNP Vx -/
  | sknp (x : Reg)
  /-- FX07 LD Vx, DT -/
  | ldVxDt (x : Reg)
  /-- FX0A LD Vx, K -/
  | ldVxK (x : Reg)
  /-- FX15 LD DT, Vx -/
  | ldDtVx (x : Reg)
  /-- FX18 LD ST, Vx -/
  | ldStVx (x : Reg)
  /-- FX1E ADD I, Vx -/
  | addI (x : Reg)
  /-- FX29 LD F, Vx -/
  | ldF (x : Reg)
  /-- FX33 LD B, Vx -/
  | ldB (x : Reg)
  /-- FX55 LD [I], Vx -/
  | ldMemVx (x : Reg)
  /-- FX65 LD Vx, [I] -/
  | ldVxMem (x : Reg)
deriving DecidableEq, Repr

end Sys2Proof
end

