-- ==== Sys2Proof/WellFormed.lean ====
section
/-! DEFINITION. What is well formed before the machine runs it: an instruction word (it matches a row of the decode table,
spec/30_encoding.md R96) and a load request (it stays inside the program region, spec/20_memory.md R74). A term of `Instr` needs
no check of its own: its operand types are the field widths of R91. -/

namespace Sys2Proof

/-- One row of the decode table: its pattern and mask (spec/30_encoding.md R96, column "match / mask"). -/
structure Row where
  pattern : Word
  mask    : Word
deriving DecidableEq, Repr

/-- A word matches a row when its masked bits are the row's pattern. -/
def Row.accepts (r : Row) (w : Word) : Bool := w &&& r.mask == r.pattern

/-- Rows 1 to 9 of spec/30_encoding.md R96. -/
def rows1to9 : List Row :=
  [⟨0x00E0, 0xFFFF⟩, ⟨0x00EE, 0xFFFF⟩, ⟨0x1000, 0xF000⟩, ⟨0x2000, 0xF000⟩, ⟨0x3000, 0xF000⟩, ⟨0x4000, 0xF000⟩,
   ⟨0x5000, 0xF00F⟩, ⟨0x6000, 0xF000⟩, ⟨0x7000, 0xF000⟩]

/-- Rows 10 to 19 of spec/30_encoding.md R96. -/
def rows10to19 : List Row :=
  [⟨0x8000, 0xF00F⟩, ⟨0x8001, 0xF00F⟩, ⟨0x8002, 0xF00F⟩, ⟨0x8003, 0xF00F⟩, ⟨0x8004, 0xF00F⟩, ⟨0x8005, 0xF00F⟩,
   ⟨0x8006, 0xF00F⟩, ⟨0x8007, 0xF00F⟩, ⟨0x800E, 0xF00F⟩, ⟨0x9000, 0xF00F⟩]

/-- Rows 20 to 34 of spec/30_encoding.md R96. -/
def rows20to34 : List Row :=
  [⟨0xA000, 0xF000⟩, ⟨0xB000, 0xF000⟩, ⟨0xC000, 0xF000⟩, ⟨0xD000, 0xF000⟩, ⟨0xE09E, 0xF0FF⟩, ⟨0xE0A1, 0xF0FF⟩,
   ⟨0xF007, 0xF0FF⟩, ⟨0xF00A, 0xF0FF⟩, ⟨0xF015, 0xF0FF⟩, ⟨0xF018, 0xF0FF⟩, ⟨0xF01E, 0xF0FF⟩, ⟨0xF029, 0xF0FF⟩,
   ⟨0xF033, 0xF0FF⟩, ⟨0xF055, 0xF0FF⟩, ⟨0xF065, 0xF0FF⟩]

/-- The decode table of spec/30_encoding.md R96, row 1 first. -/
def decodeTable : List Row := rows1to9 ++ rows10to19 ++ rows20to34

namespace WellFormed

/-- The word is an instruction of spec/30_encoding.md R96; every other word is unsupported (R97). -/
def word (w : Word) : Bool := decodeTable.any fun r => r.accepts w

/-- The load request stays within 0x200 to 0xFFF (spec/20_memory.md R74; else BoundaryViolation). -/
def load (origin : Word) (bytes : List Byte) : Bool :=
  decide (Config.programOrigin ≤ origin.toNat) && decide (origin.toNat + bytes.length ≤ Config.memSize)

end WellFormed

end Sys2Proof
end

