-- ==== Sys2Proof/Decode.lean ====
section
/-! DEFINITION. The decoder, total on any bytes and rejecting by name (spec/30_encoding.md R90 to R100), and after it the encoder,
written from the same formats (R92). -/

namespace Sys2Proof

/-- Why bytes are no instruction. The machine raises UnsupportedInstruction for every one but `truncated` (spec/30_encoding.md R97);
a fetch always gives two bytes, so `truncated` is the byte-list decoder's alone. -/
inductive Reject
  /-- Fewer than two bytes (R90). -/
  | truncated
  /-- 0NNN other than 00E0 and 00EE, the "system call" words (R98). -/
  | systemCall (w : Word)
  /-- 5XYN with N not 0 (R99). -/
  | family5 (w : Word)
  /-- 8XYN with N in 8 to D or F (R97). -/
  | family8 (w : Word)
  /-- 9XYN with N not 0 (R99). -/
  | family9 (w : Word)
  /-- EXNN with NN not in 9E, A1 (R97). -/
  | familyE (w : Word)
  /-- FXNN with NN not one of the nine sub-opcodes (R97). -/
  | familyF (w : Word)
deriving DecidableEq, Repr

/-! ### Fields (spec/30_encoding.md R91) -/

/-- A 4-bit field whose lowest bit is bit `lo`, as a number (the slice `w[lo+3:lo]` of spec/00_scope.md R8). -/
def nibbleAt (w : Word) (lo : Nat) : Fin 16 := ⟨w.toNat / 2 ^ lo % 16, Nat.mod_lt _ (by decide)⟩

/-- op = w[15:12] -/
def fieldOp (w : Word) : Fin 16 := nibbleAt w 12
/-- X = w[11:8] -/
def fieldX (w : Word) : Reg := nibbleAt w 8
/-- Y = w[7:4] -/
def fieldY (w : Word) : Reg := nibbleAt w 4
/-- N = w[3:0] -/
def fieldN (w : Word) : Fin 16 := nibbleAt w 0
/-- NN = w[7:0] -/
def fieldNN (w : Word) : Byte := BitVec.ofNat 8 (w.toNat % 256)
/-- NNN = w[11:0] -/
def fieldNNN (w : Word) : Addr := BitVec.ofNat 12 (w.toNat % 4096)

/-! ### Second-level dispatch (spec/30_encoding.md R95) -/

/-- Family 0 is selected by the whole low 12 bits. -/
def decodeFamily0 (w : Word) : Except Reject Instr :=
  match (fieldNNN w).toNat with
  | 0x0E0 => .ok .cls
  | 0x0EE => .ok .ret
  | _ => .error (.systemCall w)

/-- Family 8 is selected by the low nibble. -/
def decodeFamily8 (w : Word) : Except Reject Instr :=
  match (fieldN w).val with
  | 0x0 => .ok (.ldReg (fieldX w) (fieldY w))
  | 0x1 => .ok (.orReg (fieldX w) (fieldY w))
  | 0x2 => .ok (.andReg (fieldX w) (fieldY w))
  | 0x3 => .ok (.xorReg (fieldX w) (fieldY w))
  | 0x4 => .ok (.addReg (fieldX w) (fieldY w))
  | 0x5 => .ok (.subReg (fieldX w) (fieldY w))
  | 0x6 => .ok (.shr (fieldX w) (fieldY w))
  | 0x7 => .ok (.subnReg (fieldX w) (fieldY w))
  | 0xE => .ok (.shl (fieldX w) (fieldY w))
  | _ => .error (.family8 w)

/-- Family E is selected by the low byte. -/
def decodeFamilyE (w : Word) : Except Reject Instr :=
  match (fieldNN w).toNat with
  | 0x9E => .ok (.skp (fieldX w))
  | 0xA1 => .ok (.sknp (fieldX w))
  | _ => .error (.familyE w)

/-- Family F is selected by the low byte. -/
def decodeFamilyF (w : Word) : Except Reject Instr :=
  match (fieldNN w).toNat with
  | 0x07 => .ok (.ldVxDt (fieldX w))
  | 0x0A => .ok (.ldVxK (fieldX w))
  | 0x15 => .ok (.ldDtVx (fieldX w))
  | 0x18 => .ok (.ldStVx (fieldX w))
  | 0x1E => .ok (.addI (fieldX w))
  | 0x29 => .ok (.ldF (fieldX w))
  | 0x33 => .ok (.ldB (fieldX w))
  | 0x55 => .ok (.ldMemVx (fieldX w))
  | 0x65 => .ok (.ldVxMem (fieldX w))
  | _ => .error (.familyF w)

/-! ### The decoder -/

/-- First-level dispatch on the top 4 bits (spec/30_encoding.md R94, R96); decode reads nothing but the word
(spec/40_engine.md R125). -/
def decodeWord (w : Word) : Except Reject Instr :=
  match (fieldOp w).val with
  | 0x0 => decodeFamily0 w
  | 0x1 => .ok (.jp (fieldNNN w))
  | 0x2 => .ok (.call (fieldNNN w))
  | 0x3 => .ok (.seImm (fieldX w) (fieldNN w))
  | 0x4 => .ok (.sneImm (fieldX w) (fieldNN w))
  | 0x5 => if fieldN w = 0 then .ok (.seReg (fieldX w) (fieldY w)) else .error (.family5 w)
  | 0x6 => .ok (.ldImm (fieldX w) (fieldNN w))
  | 0x7 => .ok (.addImm (fieldX w) (fieldNN w))
  | 0x8 => decodeFamily8 w
  | 0x9 => if fieldN w = 0 then .ok (.sneReg (fieldX w) (fieldY w)) else .error (.family9 w)
  | 0xA => .ok (.ldI (fieldNNN w))
  | 0xB => .ok (.jpV0 (fieldNNN w))
  | 0xC => .ok (.rnd (fieldX w) (fieldNN w))
  | 0xD => .ok (.drw (fieldX w) (fieldY w) (fieldN w))
  | 0xE => decodeFamilyE w
  | _ => decodeFamilyF w -- 0xF, the last of the 16 values of op

/-- Two bytes make a word, the first the high byte (spec/20_memory.md R66). -/
def wordOfBytes (hi lo : Byte) : Word := BitVec.ofNat 16 (hi.toNat * 256 + lo.toNat)

/-- The bytes of a word, as they stand at rising addresses (spec/20_memory.md R66). -/
def highByte (w : Word) : Byte := BitVec.ofNat 8 (w.toNat / 256)
def lowByte (w : Word) : Byte := BitVec.ofNat 8 (w.toNat % 256)

/-- Decode the front of a list of bytes: the instruction and the bytes after it. -/
def decodeBytes : List Byte → Except Reject (Instr × List Byte)
  | hi :: lo :: rest =>
    match decodeWord (wordOfBytes hi lo) with
    | .ok i => .ok (i, rest)
    | .error r => .error r
  | _ => .error .truncated

/-- The instruction word that the host's `nbits` bits `w` give: one 16-bit word (spec/30_encoding.md R90), the bits above
`nbits` zero. -/
def tableWord (nbits w : Nat) : Word := BitVec.ofNat 16 (w % 2 ^ nbits)

/-- What the decoder reads from an instruction whose bits are `w`, laid out in memory high byte first. -/
def decodeTableWord (nbits w : Nat) : Option Instr :=
  match decodeBytes [highByte (tableWord nbits w), lowByte (tableWord nbits w)] with
  | .ok (i, _) => some i
  | .error _ => none

/-! ### The encoder (the formats of spec/30_encoding.md R92) -/

/-- Format FA: op[15:12] nnn[11:0]. -/
def formatFA (op : Nat) (nnn : Addr) : Word := BitVec.ofNat 16 (op * 4096 + nnn.toNat)
/-- Format FI: op[15:12] x[11:8] nn[7:0]. -/
def formatFI (op : Nat) (x : Reg) (nn : Byte) : Word := BitVec.ofNat 16 (op * 4096 + x.val * 256 + nn.toNat)
/-- Format FR: op[15:12] x[11:8] y[7:4] sub[3:0]; format FD has the same layout with n in the place of sub. -/
def formatFR (op : Nat) (x y : Reg) (sub : Fin 16) : Word :=
  BitVec.ofNat 16 (op * 4096 + x.val * 256 + y.val * 16 + sub.val)
/-- Format FS: op[15:12] x[11:8] sub[7:0]. -/
def formatFS (op : Nat) (x : Reg) (sub : Byte) : Word := formatFI op x sub

/-- The word of an instruction (spec/30_encoding.md R92, R96). -/
def encode : Instr → Word
  | .cls => 0x00E0
  | .ret => 0x00EE
  | .jp nnn => formatFA 0x1 nnn
  | .call nnn => formatFA 0x2 nnn
  | .seImm x nn => formatFI 0x3 x nn
  | .sneImm x nn => formatFI 0x4 x nn
  | .seReg x y => formatFR 0x5 x y 0x0
  | .ldImm x nn => formatFI 0x6 x nn
  | .addImm x nn => formatFI 0x7 x nn
  | .ldReg x y => formatFR 0x8 x y 0x0
  | .orReg x y => formatFR 0x8 x y 0x1
  | .andReg x y => formatFR 0x8 x y 0x2
  | .xorReg x y => formatFR 0x8 x y 0x3
  | .addReg x y => formatFR 0x8 x y 0x4
  | .subReg x y => formatFR 0x8 x y 0x5
  | .shr x y => formatFR 0x8 x y 0x6
  | .subnReg x y => formatFR 0x8 x y 0x7
  | .shl x y => formatFR 0x8 x y 0xE
  | .sneReg x y => formatFR 0x9 x y 0x0
  | .ldI nnn => formatFA 0xA nnn
  | .jpV0 nnn => formatFA 0xB nnn
  | .rnd x nn => formatFI 0xC x nn
  | .drw x y n => formatFR 0xD x y n
  | .skp x => formatFS 0xE x 0x9E
  | .sknp x => formatFS 0xE x 0xA1
  | .ldVxDt x => formatFS 0xF x 0x07
  | .ldVxK x => formatFS 0xF x 0x0A
  | .ldDtVx x => formatFS 0xF x 0x15
  | .ldStVx x => formatFS 0xF x 0x18
  | .addI x => formatFS 0xF x 0x1E
  | .ldF x => formatFS 0xF x 0x29
  | .ldB x => formatFS 0xF x 0x33
  | .ldMemVx x => formatFS 0xF x 0x55
  | .ldVxMem x => formatFS 0xF x 0x65

end Sys2Proof
end

