-- ==== Sys2Proof/Machine/State.lean ====
section
/-! DEFINITION. The state of the block (spec/10_state.md R20), the reasons a step could stop, and the state after reset
(spec/10_state.md section 10, 70_reset_and_hazards.md R360). -/

namespace Sys2Proof.Machine

/-- The cycle errors of spec/60_exceptions.md R320 (codes 2 to 7). BoundaryViolation, code 1, is a load error and no cycle error. -/
inductive ErrorKind
  | unsupportedInstruction
  | stackOverflow
  | stackUnderflow
  | addressViolation
  | keyRangeViolation
  | glyphWriteViolation
deriving DecidableEq, Repr

/-- The error record ERR (spec/10_state.md R32): `word` is none when the fetch itself failed. -/
structure ErrorRecord where
  kind : ErrorKind
  pc   : Word
  word : Option Word
deriving DecidableEq, Repr

/-- MODE, the engine's status (spec/10_state.md R31). -/
inductive Mode
  /-- The next `cycle()` fetches and executes the instruction at PC. -/
  | running
  /-- An FX0A at PC is suspended; the key code will go to V[x]. -/
  | awaitingKey (x : Reg)
  /-- A cycle has reported an error; nothing executes until reset. -/
  | halted
deriving DecidableEq, Repr

/-- The reasons a step stops with a fault: NONE. The spec describes what every error of a cycle does (spec/40_engine.md R128, R129;
60_exceptions.md R324), so the model takes each error as a next state and no step stops. Nobody raises a fault; safe (log entry 5). -/
inductive Fault
deriving DecidableEq, Repr

/-- The reasons the model gives no meaning. -/
inductive Refusal
  /-- An instruction that has no meaning yet, by its mnemonic. Raised by an arm of exec only; no arm raises it now. Safe. -/
  | notModelled (mnemonic : String)
  /-- The host asked for `tick_timers()` under TIMER_COUPLING = per_cycle, where "the operation does not exist: a model offers no
  such step" (spec/40_engine.md R130). Raised by `hostOp` only, never by a step. Safe (log entry 14). -/
  | tickTimersNotOffered
deriving DecidableEq, Repr

/-- Memory: the bytes that differ from the reset contents, as (address, byte) pairs with strictly rising addresses
(spec/20_memory.md R60; `Memory.wf` in Machine/Ops.lean is the canonical form; log entry 11). -/
abbrev Memory := List Host.Cell

/-- The pixel grid: FB[y][x] is column x of row y (spec/10_state.md R29). -/
abbrev FrameBuffer := Vector (Vector Bool Config.fbWidth) Config.fbHeight

/-- Every pixel 0. -/
def FrameBuffer.clear : FrameBuffer := Vector.replicate Config.fbHeight (Vector.replicate Config.fbWidth false)

/-- The state tuple of spec/10_state.md R20, and two fields of the model's own, `params` and `draws`. -/
structure State where
  /-- V0 to VF (R21); VF is `v[15]` (R22). -/
  v         : Vector Byte 16
  /-- The index register I (R23). -/
  i         : Word
  /-- The program counter PC (R24). -/
  pc        : Word
  /-- The call stack S (R25). -/
  stack     : Vector Word Config.stackDepth
  /-- The stack pointer SP, 0 to 16 inclusive (R26). -/
  sp        : Fin (Config.stackDepth + 1)
  /-- The delay timer DT (R27). -/
  dt        : Byte
  /-- The sound timer ST (R27). -/
  st        : Byte
  /-- The key state K, true for down (R28). -/
  keys      : Vector Bool 16
  /-- The framebuffer FB (R29). -/
  fb        : FrameBuffer
  /-- FB_CHANGED (R30). -/
  fbChanged : Bool
  /-- MODE (R31). -/
  mode      : Mode
  /-- ERR (R32). -/
  err       : Option ErrorRecord
  /-- The address space M (spec/20_memory.md R60). -/
  mem       : Memory
  /-- The model's own: the parameters of spec/00_scope.md R7, changed by nothing (log entry 1: DESIGN CHOICE). -/
  params    : Params
  /-- The model's own: how many bytes CXNN has drawn (log entry 2: DESIGN CHOICE). -/
  draws     : Nat
deriving DecidableEq, Repr

/-- The machine right after reset (spec/70_reset_and_hazards.md R360): every value is the spec's but `params` (the decided values
of spec/00_scope.md R7) and `draws` (log entry 2: DESIGN CHOICE). -/
def State.reset : State where
  v         := Vector.replicate 16 0#8
  i         := 0x0000#16
  pc        := 0x0200#16
  stack     := Vector.replicate Config.stackDepth 0x0000#16
  sp        := 0
  dt        := 0#8
  st        := 0#8
  keys      := Vector.replicate 16 false
  fb        := FrameBuffer.clear
  fbChanged := true
  mode      := .running
  err       := none
  mem       := []
  params    := Config.decided
  draws     := 0

/-- What a step, an execution or a host operation answers. -/
abbrev Answer := Host.Outcome State Fault Refusal

end Sys2Proof.Machine
end

