-- ==== Sys2Proof/Machine/Ops.lean ====
section
/-! DEFINITION. The named operations over the state: registers, program counter, stack, memory, framebuffer, timers, and taking an
error (the block's exception entry). Every instruction goes through them. -/

namespace Sys2Proof.Machine

/-! ### Memory (spec/20_memory.md) -/

/-- What an unlisted address reads as: its reset contents, the glyph table at 0x000 to 0x04F and 0x00 above (spec/20_memory.md R60,
R61). -/
def resetByte (glyphs : Vector Byte Config.glyphSize) (a : Nat) : Byte :=
  if h : a < Config.glyphSize then glyphs[a] else 0#8

namespace Memory

/-- The byte listed for an address. -/
def find : Memory → Nat → Option Byte
  | [], _ => none
  | (k, b) :: rest, a => if k = a then some b else find rest a

/-- The byte at an address: the listed one, or the reset contents. -/
def get (glyphs : Vector Byte Config.glyphSize) (m : Memory) (a : Nat) : Byte :=
  match find m a with
  | some b => b
  | none => resetByte glyphs a

/-- Put a cell in front of `rest`, unless the byte is what the address reads as when unlisted. -/
def cons (unlisted : Byte) (a : Nat) (b : Byte) (rest : Memory) : Memory :=
  if b = unlisted then rest else (a, b) :: rest

/-- Write a byte, keeping the canonical form; `unlisted` is what the address reads as when unlisted. -/
def put (unlisted : Byte) : Memory → Nat → Byte → Memory
  | [], a, b => cons unlisted a b []
  | (k, c) :: rest, a, b =>
    if k < a then (k, c) :: put unlisted rest a b
    else if k = a then cons unlisted a b rest
    else cons unlisted a b ((k, c) :: rest)

/-- The canonical form above a bound: addresses strictly rising from at least `low`, all below 4096, and no entry equal to what
its address reads as when unlisted. -/
def wfFrom (glyphs : Vector Byte Config.glyphSize) : Nat → Memory → Bool
  | _, [] => true
  | low, (k, b) :: rest =>
    decide (low ≤ k) && decide (k < Config.memSize) && decide (b ≠ resetByte glyphs k) && wfFrom glyphs (k + 1) rest

/-- The canonical form of a memory: equal memories are equal lists. -/
def wf (glyphs : Vector Byte Config.glyphSize) (m : Memory) : Bool := wfFrom glyphs 0 m

end Memory

namespace State

/-- M[a], with no check of the address. -/
def byteAt (s : State) (a : Nat) : Byte := Memory.get s.params.glyphTable s.mem a

/-- M[a] <- b, with no check of the address. -/
def setByte (s : State) (a : Nat) (b : Byte) : State :=
  { s with mem := Memory.put (resetByte s.params.glyphTable a) s.mem a b }

/-- Copy bytes to rising addresses from `a`, with no check of the addresses. -/
def setBytes (s : State) (a : Nat) : List Byte → State
  | [] => s
  | b :: rest => (s.setByte a b).setBytes (a + 1) rest

end State

/-- The address check of `MemRead` and `MemWrite` (spec/20_memory.md R63): the address the access reaches, or AddressViolation. -/
def resolve (policy : AddrPolicy) (a : Nat) : Except ErrorKind Nat :=
  if a < Config.memSize then .ok a
  else match policy with
    | .reject => .error .addressViolation
    | .wrap => .ok (a % Config.memSize)

/-- `MemRead(a, 1)` (spec/20_memory.md R63). -/
def memRead (s : State) (a : Nat) : Except ErrorKind Byte :=
  match resolve s.params.addrPolicy a with
  | .ok b => .ok (s.byteAt b)
  | .error k => .error k

/-- `MemWrite(a, 1, v)` (spec/20_memory.md R64). -/
def memWrite (s : State) (a : Nat) (v : Byte) : Except ErrorKind State :=
  match resolve s.params.addrPolicy a with
  | .error k => .error k
  | .ok b =>
    if b < Config.glyphSize then
      match s.params.glyphWritePolicy with
      | .fault => .error .glyphWriteViolation
      | .ignore => .ok s
      | .write => .ok (s.setByte b v)
    else .ok (s.setByte b v)

/-- Single-byte reads at rising addresses, in that order (spec/20_memory.md R68): the bytes, or the first error. -/
def readBytes (s : State) (a : Nat) : Nat → Except ErrorKind (List Byte)
  | 0 => .ok []
  | n + 1 =>
    match memRead s a with
    | .error k => .error k
    | .ok b =>
      match readBytes s (a + 1) n with
      | .error k => .error k
      | .ok bs => .ok (b :: bs)

/-- Single-byte writes at rising addresses, in that order (spec/20_memory.md R68): the state after them, or the first error. -/
def writeBytes (s : State) (a : Nat) : List Byte → Except ErrorKind State
  | [] => .ok s
  | b :: rest =>
    match memWrite s a b with
    | .error k => .error k
    | .ok t => writeBytes t (a + 1) rest

/-! ### The framebuffer (spec/10_state.md R29, 44_display.md R260, R262) -/

namespace FrameBuffer

/-- The pixel at column `x`, row `y`; "all coordinate arithmetic wraps modulo W (x) and modulo H (y)". -/
def pixel (fb : FrameBuffer) (x y : Nat) : Bool :=
  (fb[y % Config.fbHeight]'(Nat.mod_lt _ (by decide)))[x % Config.fbWidth]'(Nat.mod_lt _ (by decide))

/-- Toggle the pixel at column `x`, row `y`, both wrapped. -/
def flip (fb : FrameBuffer) (x y : Nat) : FrameBuffer :=
  fb.set (y % Config.fbHeight)
    ((fb[y % Config.fbHeight]'(Nat.mod_lt _ (by decide))).set (x % Config.fbWidth) (!fb.pixel x y) (Nat.mod_lt _ (by decide)))
    (Nat.mod_lt _ (by decide))

end FrameBuffer

/-- A draw in progress: the framebuffer and the collision flag `c` of spec/44_display.md R262. -/
structure Canvas where
  fb  : FrameBuffer
  hit : Bool
deriving DecidableEq, Repr

namespace Canvas

/-- One column of one sprite row: bit 7 is column 0; a set bit toggles its pixel and collides when the pixel was 1. -/
def drawBit (x y : Nat) (row : Byte) (c : Canvas) (col : Nat) : Canvas :=
  if row.getMsbD col then ⟨c.fb.flip (x + col) y, c.hit || c.fb.pixel (x + col) y⟩ else c

/-- The 8 columns of one sprite row. -/
def drawRow (c : Canvas) (x y : Nat) (row : Byte) : Canvas :=
  [0, 1, 2, 3, 4, 5, 6, 7].foldl (drawBit x y row) c

/-- The rows of a sprite, the first at row `y`. -/
def drawRows (c : Canvas) (x y : Nat) : List Byte → Canvas
  | [] => c
  | row :: rest => (c.drawRow x y row).drawRows x (y + 1) rest

end Canvas

namespace State

/-! ### Registers (spec/10_state.md R21 to R23, 00_scope.md R10) -/

/-- `V[x]` -/
def reg (s : State) (x : Reg) : Byte := s.v[x.val]

/-- `V[x] <- b` -/
def setReg (s : State) (x : Reg) (b : Byte) : State := { s with v := s.v.set x.val b }

/-- `V[k] <- b0 ; V[k+1] <- b1 ; ...`, up to VF. -/
def setRegs (s : State) (k : Nat) : List Byte → State
  | [] => s
  | b :: rest => ({ s with v := s.v.setIfInBounds k b } : State).setRegs (k + 1) rest

/-- `VF <- bool(c)` -/
def setFlag (s : State) (c : Bool) : State := s.setReg VF (flagByte c)

/-- `I <- a` -/
def setI (s : State) (a : Word) : State := { s with i := a }

/-! ### The program counter (spec/40_engine.md R126) -/

/-- `pc <- t` -/
def jump (s : State) (t : Word) : State := { s with pc := t }

/-- `next()`: PC + 2 modulo 2^16. -/
def next (s : State) : State := s.jump (s.pc + 2)

/-- `skip()`: PC + 4 modulo 2^16. -/
def skip (s : State) : State := s.jump (s.pc + 4)

/-- `if c: skip() else: next()` -/
def skipIf (s : State) (c : Bool) : State := if c then s.skip else s.next

/-! ### The call stack (spec/10_state.md R25, R26; 42_control.md R202, R203) -/

/-- Write S[SP], then SP + 1; StackOverflow when SP = 16. -/
def push (s : State) (a : Word) : Except ErrorKind State :=
  if h : s.sp.val < Config.stackDepth then
    .ok { s with stack := s.stack.set s.sp.val a, sp := ⟨s.sp.val + 1, Nat.succ_lt_succ h⟩ }
  else .error .stackOverflow

/-- SP - 1, then jump to S[SP], whose entry is kept; StackUnderflow when SP = 0. -/
def popJump (s : State) : Except ErrorKind State :=
  if h : 0 < s.sp.val then
    .ok { s with
      pc := s.stack[s.sp.val - 1]'(by have := s.sp.isLt; omega),
      sp := ⟨s.sp.val - 1, by have := s.sp.isLt; omega⟩ }
  else .error .stackUnderflow

/-! ### Timers, display, keys and status -/

/-- `DT <- b` -/
def setDt (s : State) (b : Byte) : State := { s with dt := b }

/-- `ST <- b` -/
def setSt (s : State) (b : Byte) : State := { s with st := b }

/-- One timer of `tick()`: "Decrement ... by 1 if currently nonzero" (spec/40_engine.md R127). -/
def countDown (b : Byte) : Byte := if b = 0 then 0 else b - 1

/-- `tick()` (spec/40_engine.md R127). -/
def tick (s : State) : State := { s with dt := countDown s.dt, st := countDown s.st }

/-- Replace the framebuffer and set FB_CHANGED (spec/10_state.md R30). -/
def present (s : State) (fb : FrameBuffer) : State := { s with fb := fb, fbChanged := true }

/-- `MODE <- m` -/
def setMode (s : State) (m : Mode) : State := { s with mode := m }

/-- `K[code] <- down` (spec/40_engine.md R131). -/
def setKeyFlag (s : State) (code : Fin 16) (down : Bool) : State := { s with keys := s.keys.set code.val down }

/-- `K[code]` -/
def key (s : State) (code : Fin 16) : Bool := s.keys[code.val]

/-- Count one draw of CXNN (log entry 2). -/
def countDraw (s : State) : State := { s with draws := s.draws + 1 }

/-! ### Taking an error (spec/40_engine.md R128, R129; 60_exceptions.md R321, R324) -/

/-- Abort the cycle that started in `s`: nothing of it but ERR and MODE changes. `word` is none when the fetch failed. There is
no return from an error but the host's `reset()` (spec/60_exceptions.md R325), in Machine/HostOps.lean. -/
def abort (s : State) (k : ErrorKind) (word : Option Word) : State :=
  { s with err := some ⟨k, s.pc, word⟩, mode := .halted }

end State

/-- End the execution of `i`, which started in `s`: its next state, or the error it raised, taken. The fetched word is `encode i`
(log entry 6: DEDUCED). -/
def finish (i : Instr) (s : State) : Except ErrorKind State → Answer
  | .ok t => .next t
  | .error k => .next (s.abort k (some (encode i)))

end Sys2Proof.Machine
end

