-- ==== Sys2Proof/Machine/Operands.lean ====
section
/-! DEFINITION. Every operand form: effective addresses, targets, the key operand, the shift source, register lists, the glyph
address, sprite coordinates, decimal digits (spec/30_encoding.md R93, 20_memory.md R65, 45_input.md R280). -/

namespace Sys2Proof.Machine

/-- The one addressing mode: the exact integer I + k, not truncated (spec/20_memory.md R65, 43_memory_index.md R230). -/
def effectiveAddr (s : State) (k : Nat) : Nat := s.i.toNat + k

/-- The return address a call pushes: PC + 2 modulo 2^16 (spec/42_control.md R202). -/
def returnAddr (s : State) : Word := s.pc + 2

/-- The target of BNNN: NNN + V0, not reduced to 12 bits (spec/42_control.md R208). -/
def indexedTarget (s : State) (nnn : Addr) : Word := zext16 nnn + zext16 (s.reg 0)

/-- `key_of(x)`: the key code in V[x], or KeyRangeViolation (spec/45_input.md R280). -/
def keyOf (s : State) (x : Reg) : Except ErrorKind (Fin 16) :=
  if h : (s.reg x).toNat < 16 then .ok ⟨(s.reg x).toNat, h⟩ else .error .keyRangeViolation

/-- The byte 8XY6 and 8XYE shift (spec/41_arithmetic.md R169, R171; SHIFT_SOURCE of 00_scope.md R7). -/
def shiftSource (s : State) (x y : Reg) : Byte :=
  match s.params.shiftSource with
  | .vx => s.reg x
  | .vy => s.reg y

/-- V0 to VX inclusive, in that order (spec/30_encoding.md R93: X is a count bound in FX55 and FX65). -/
def regsUpTo (s : State) (x : Reg) : List Byte := s.v.toList.take (x.val + 1)

/-- The address of the glyph of a byte's low nibble (spec/43_memory_index.md R233). -/
def glyphAddr (b : Byte) : Word := BitVec.ofNat 16 (Config.glyphBase + Config.glyphHeight * (b &&& 0x0F#8).toNat)

/-- The column and row where a sprite starts: V[x] mod 64 and V[y] mod 32 (spec/44_display.md R262). -/
def spriteColumn (s : State) (x : Reg) : Nat := (s.reg x).toNat % Config.fbWidth
def spriteRow (s : State) (y : Reg) : Nat := (s.reg y).toNat % Config.fbHeight

/-- Hundreds, tens and units of a byte (spec/43_memory_index.md R234). -/
def decimalDigits (b : Byte) : List Byte :=
  [BitVec.ofNat 8 (b.toNat / 100), BitVec.ofNat 8 (b.toNat / 10 % 10), BitVec.ofNat 8 (b.toNat % 10)]

end Sys2Proof.Machine
end

