-- ==== Sys2Proof/Machine/Cycle.lean ====
section
/-! DEFINITION. The parts of a cycle around the execution of an instruction: fetch, the tick at its end, and placing a word where the
next fetch reads (spec/40_engine.md R121 to R129). -/

namespace Sys2Proof.Machine

/-- `fetch()` (spec/40_engine.md R124): two bytes, big-endian; PC + 1 is not truncated. -/
def fetch (s : State) : Except ErrorKind Word :=
  match memRead s s.pc.toNat with
  | .error k => .error k
  | .ok hi =>
    match memRead s (s.pc.toNat + 1) with
    | .error k => .error k
    | .ok lo => .ok (wordOfBytes hi lo)

/-- The tick a cycle performs: `tick()` under per_cycle, nothing under decoupled (spec/40_engine.md R127). -/
def State.cycleTick (s : State) : State :=
  match s.params.timerCoupling with
  | .perCycle => s.tick
  | .decoupled => s

/-- A cycle while AwaitingKey: it only ticks (spec/40_engine.md R123). -/
def waitCycle (s : State) : State := s.cycleTick

/-- A cycle whose fetch failed (spec/40_engine.md R124, R129). -/
def failFetch (s : State) (k : ErrorKind) : State := s.abort k none

/-- A cycle whose word is no instruction (spec/40_engine.md R125, 30_encoding.md R97). -/
def failDecode (s : State) (w : Word) : State := s.abort .unsupportedInstruction (some w)

/-- The end of a cycle whose execution left `t`: the tick, unless the cycle aborted (spec/40_engine.md R121, R127, R128). -/
def endCycle (t : State) : State := if t.mode = .halted then t else t.cycleTick

/-- The PC the next fetch can use: PC itself, or PROGRAM_ORIGIN where no word can be fetched at PC (log entry 8). -/
def fetchablePc (s : State) : Word :=
  if s.params.addrPolicy = .wrap ∨ s.pc.toNat + 1 < Config.memSize then s.pc else BitVec.ofNat 16 Config.programOrigin

/-- `s` with MODE Running and the word `w` where the next fetch reads it (log entry 8). -/
def placeWord (s : State) (w : Word) : State :=
  let t : State := ({ s with pc := fetchablePc s } : State).setMode .running
  (t.setByte (t.pc.toNat % Config.memSize) (highByte w)).setByte ((t.pc.toNat + 1) % Config.memSize) (lowByte w)

end Sys2Proof.Machine
end

