-- ==== Sys2Proof/Machine/Flags.lean ====
section
/-! DEFINITION. What the flag-writing instructions put into VF (spec/10_state.md R22). The collision flag of DXYN is the `hit` of a
`Canvas` (Machine/Ops.lean). -/

namespace Sys2Proof.Machine

/-- 8XY4: the exact unsigned sum exceeds 255 (spec/41_arithmetic.md R167). -/
def carry (a b : Byte) : Bool := decide (a.toNat + b.toNat > 255)

/-- 8XY5 and 8XY7: subtracting `b` from `a` needs no borrow (spec/41_arithmetic.md R168, R170). -/
def noBorrow (a b : Byte) : Bool := decide (b.toNat ≤ a.toNat)

/-- 8XY6: the bit shifted out to the right (spec/41_arithmetic.md R169). -/
def shiftedOutRight (b : Byte) : Bool := b.getLsbD 0

/-- 8XYE: the bit shifted out to the left (spec/41_arithmetic.md R171). -/
def shiftedOutLeft (b : Byte) : Bool := b.getMsbD 0

/-- Write the result, then the flag, so that the flag wins when X = 0xF (spec/41_arithmetic.md R160, 00_scope.md R11). -/
def State.setResult (s : State) (x : Reg) (result : Byte) (flag : Bool) : State := (s.setReg x result).setFlag flag

end Sys2Proof.Machine
end

