-- ==== Sys2Proof/Machine/Arithmetic.lean ====
section
/-! DEFINITION. Set, copy and arithmetic: 6XNN, 7XNN, 8XY0 to 8XY7, 8XYE, CXNN (spec/41_arithmetic.md). None raises an error. -/

namespace Sys2Proof.Machine

/-- 6XNN (R161) -/
def execLdImm (x : Reg) (nn : Byte) (s : State) : Answer := .next (s.setReg x nn).next

/-- 7XNN (R162): no flag. -/
def execAddImm (x : Reg) (nn : Byte) (s : State) : Answer := .next (s.setReg x (s.reg x + nn)).next

/-- 8XY0 (R163) -/
def execLdReg (x y : Reg) (s : State) : Answer := .next (s.setReg x (s.reg y)).next

/-- 8XY1 (R164): VF is not written as a flag. -/
def execOrReg (x y : Reg) (s : State) : Answer := .next (s.setReg x (s.reg x ||| s.reg y)).next

/-- 8XY2 (R165): VF is not written as a flag. -/
def execAndReg (x y : Reg) (s : State) : Answer := .next (s.setReg x (s.reg x &&& s.reg y)).next

/-- 8XY3 (R166): VF is not written as a flag. -/
def execXorReg (x y : Reg) (s : State) : Answer := .next (s.setReg x (s.reg x ^^^ s.reg y)).next

/-- 8XY4 (R167) -/
def execAddReg (x y : Reg) (s : State) : Answer :=
  .next (s.setResult x (s.reg x + s.reg y) (carry (s.reg x) (s.reg y))).next

/-- 8XY5 (R168) -/
def execSubReg (x y : Reg) (s : State) : Answer :=
  .next (s.setResult x (s.reg x - s.reg y) (noBorrow (s.reg x) (s.reg y))).next

/-- 8XY6 (R169) -/
def execShr (x y : Reg) (s : State) : Answer :=
  .next (s.setResult x (shiftSource s x y >>> 1) (shiftedOutRight (shiftSource s x y))).next

/-- 8XY7 (R170) -/
def execSubnReg (x y : Reg) (s : State) : Answer :=
  .next (s.setResult x (s.reg y - s.reg x) (noBorrow (s.reg y) (s.reg x))).next

/-- 8XYE (R171) -/
def execShl (x y : Reg) (s : State) : Answer :=
  .next (s.setResult x (shiftSource s x y <<< 1) (shiftedOutLeft (shiftSource s x y))).next

/-- CXNN with the drawn byte `r` (R172). -/
def rndWith (r : Byte) (x : Reg) (nn : Byte) (s : State) : State := ((s.setReg x (r &&& nn)).countDraw).next

/-- CXNN (R172): the draw is free, log entry 2. -/
def execRnd (x : Reg) (nn : Byte) (s : State) : Answer := .next (rndWith (Config.draw s.draws) x nn s)

end Sys2Proof.Machine
end

