-- ==== Sys2Proof/Machine/Control.lean ====
section
/-! DEFINITION. Control flow: 1NNN, 2NNN, 00EE, 3XNN, 4XNN, 5XY0, 9XY0, BNNN (spec/42_control.md). No target is checked here: a
target that cannot be fetched raises at the next fetch (R200). -/

namespace Sys2Proof.Machine

/-- 1NNN (R201) -/
def execJp (nnn : Addr) (s : State) : Answer := .next (s.jump (zext16 nnn))

/-- 2NNN (R202): StackOverflow when SP = 16. -/
def execCall (nnn : Addr) (s : State) : Answer :=
  finish (.call nnn) s
    (match s.push (returnAddr s) with
    | .error k => .error k
    | .ok t => .ok (t.jump (zext16 nnn)))

/-- 00EE (R203): StackUnderflow when SP = 0. -/
def execRet (s : State) : Answer := finish .ret s s.popJump

/-- 3XNN (R204) -/
def execSeImm (x : Reg) (nn : Byte) (s : State) : Answer := .next (s.skipIf (s.reg x == nn))

/-- 4XNN (R205) -/
def execSneImm (x : Reg) (nn : Byte) (s : State) : Answer := .next (s.skipIf (s.reg x != nn))

/-- 5XY0 (R206) -/
def execSeReg (x y : Reg) (s : State) : Answer := .next (s.skipIf (s.reg x == s.reg y))

/-- 9XY0 (R207) -/
def execSneReg (x y : Reg) (s : State) : Answer := .next (s.skipIf (s.reg x != s.reg y))

/-- BNNN (R208): the register is always V0. -/
def execJpV0 (nnn : Addr) (s : State) : Answer := .next (s.jump (indexedTarget s nnn))

end Sys2Proof.Machine
end

