-- ==== Sys2Proof/Machine/Display.lean ====
section
/-! DEFINITION. Display: 00E0 and DXYN (spec/44_display.md). -/

namespace Sys2Proof.Machine

/-- 00E0 (R261): VF is unaffected, FB_CHANGED is set. -/
def execCls (s : State) : Answer := .next (s.present FrameBuffer.clear).next

/-- The framebuffer and collision flag after drawing `rows` at the sprite's place (R262). -/
def drawSprite (s : State) (x y : Reg) (rows : List Byte) : Canvas :=
  Canvas.drawRows ⟨s.fb, false⟩ (spriteColumn s x) (spriteRow s y) rows

/-- DXYN (R262): the coordinates are read before VF is written; what VF reports is log entry 12 (DEDUCED). -/
def execDrw (x y : Reg) (n : Fin 16) (s : State) : Answer :=
  finish (.drw x y n) s
    (match readBytes s (effectiveAddr s 0) n.val with
    | .error k => .error k
    | .ok rows => .ok ((s.present (drawSprite s x y rows).fb).setFlag (drawSprite s x y rows).hit).next)

end Sys2Proof.Machine
end

