-- ==== Sys2Proof/Machine/Input.lean ====
section
/-! DEFINITION. Input: EX9E, EXA1, FX0A, and the completion of a key wait (spec/45_input.md). No instruction writes K (R280). -/

namespace Sys2Proof.Machine

/-- EX9E (R281) -/
def execSkp (x : Reg) (s : State) : Answer :=
  finish (.skp x) s
    (match keyOf s x with
    | .error k => .error k
    | .ok code => .ok (s.skipIf (s.key code)))

/-- EXA1 (R282) -/
def execSknp (x : Reg) (s : State) : Answer :=
  finish (.sknp x) s
    (match keyOf s x with
    | .error k => .error k
    | .ok code => .ok (s.skipIf (!s.key code)))

/-- FX0A (R283): the wait begins; PC is not advanced. -/
def execLdVxK (x : Reg) (s : State) : Answer := .next (s.setMode (.awaitingKey x))

/-- `complete_wait(x, code)`, performed inside `set_key` (R284). -/
def completeWait (s : State) (x : Reg) (code : Fin 16) : State :=
  ((s.setReg x (BitVec.ofNat 8 code.val)).next).setMode .running

end Sys2Proof.Machine
end

