-- ==== Sys2Proof/Machine/MemoryIndex.lean ====
section
/-! DEFINITION. Memory and index: ANNN, FX1E, FX29, FX33, FX55, FX65 (spec/43_memory_index.md). I is never updated by an access
(R230); an error leaves no partial effect (R230, 40_engine.md R128). -/

namespace Sys2Proof.Machine

/-- ANNN (R231) -/
def execLdI (nnn : Addr) (s : State) : Answer := .next (s.setI (zext16 nnn)).next

/-- FX1E (R232): modulo 2^16, no flag. -/
def execAddI (x : Reg) (s : State) : Answer := .next (s.setI (s.i + zext16 (s.reg x))).next

/-- FX29 (R233) -/
def execLdF (x : Reg) (s : State) : Answer := .next (s.setI (glyphAddr (s.reg x))).next

/-- FX33 and FX55: store bytes at I, I + 1, ... (R234, R235). -/
def storeAtI (bytes : List Byte) (s : State) : Except ErrorKind State :=
  match writeBytes s (effectiveAddr s 0) bytes with
  | .error k => .error k
  | .ok t => .ok t.next

/-- FX33 (R234): hundreds, tens, units. -/
def execLdB (x : Reg) (s : State) : Answer := finish (.ldB x) s (storeAtI (decimalDigits (s.reg x)) s)

/-- FX55 (R235): V0 to VX. -/
def execLdMemVx (x : Reg) (s : State) : Answer := finish (.ldMemVx x) s (storeAtI (regsUpTo s x) s)

/-- FX65 (R236): V0 to VX; all the bytes are read before the first register is written (log entry 13: DEDUCED). -/
def execLdVxMem (x : Reg) (s : State) : Answer :=
  finish (.ldVxMem x) s
    (match readBytes s (effectiveAddr s 0) (x.val + 1) with
    | .error k => .error k
    | .ok bs => .ok (s.setRegs 0 bs).next)

end Sys2Proof.Machine
end

