-- ==== Sys2Proof/Machine/Timers.lean ====
section
/-! DEFINITION. Timers: FX07, FX15, FX18 (spec/46_timers.md). The tick is the cycle's own step 5 (Machine/Cycle.lean). -/

namespace Sys2Proof.Machine

/-- FX07 (R300): DT before this cycle's tick. -/
def execLdVxDt (x : Reg) (s : State) : Answer := .next (s.setReg x s.dt).next

/-- FX15 (R301) -/
def execLdDtVx (x : Reg) (s : State) : Answer := .next (s.setDt (s.reg x)).next

/-- FX18 (R302) -/
def execLdStVx (x : Reg) (s : State) : Answer := .next (s.setSt (s.reg x)).next

end Sys2Proof.Machine
end

