-- ==== Sys2Proof/Machine/Step.lean ====
section
/-! DEFINITION. One step is one `cycle()` (spec/40_engine.md R121); its result is read from the state it leaves (`cycleResult` in
Machine/HostOps.lean). -/

namespace Sys2Proof.Machine

/-- `cycle()`: nothing when Halted (R122), the tick when AwaitingKey (R123), else fetch, decode, execute, tick. Only here is MODE
checked, not in `exec` (log entry 9: DEDUCED). -/
def step (s : State) : Host.Outcome State Fault Refusal :=
  match s.mode with
  | .halted => .next s
  | .awaitingKey _ => .next (waitCycle s)
  | .running =>
    match fetch s with
    | .error k => .next (failFetch s k)
    | .ok w =>
      match decodeWord w with
      | .error _ => .next (failDecode s w)
      | .ok i =>
        match exec i s with
        | .next t => .next (endCycle t)
        | .fault r => .fault r
        | .refused r => .refused r

/-- The instruction whose bits are `w`, stored where `step` fetches its next instruction (log entries 7 and 8). -/
def State.withFetchWord (s : State) (nbits w : Nat) : State := placeWord s (tableWord nbits w)

end Sys2Proof.Machine
end

