-- ==== Sys2Proof/Machine/HostOps.lean ====
section
/-! DEFINITION. The operations the host may invoke and what each answers (spec/40_engine.md R120 to R132, 20_memory.md R74,
70_reset_and_hazards.md R360), and a run, which is a list of them in any order (40_engine.md R133, 20_memory.md R71). -/

namespace Sys2Proof.Machine

/-- The operations of spec/40_engine.md R120. -/
inductive HostOp
  | reset
  | load (origin : Word) (bytes : List Byte)
  | cycle
  | tickTimers
  | setKey (code : Fin 16) (pressed : Bool)
  | readFramebuffer
  | readTimers
  | readState
deriving DecidableEq, Repr

/-- The result of `cycle()` (spec/40_engine.md R121). `err` gives ERR's kind; it is none only in a state no run reaches, Halted
with no ERR (log entry 5). -/
inductive CycleResult
  | ok
  | awaitingKey
  | err (kind : Option ErrorKind)
deriving DecidableEq, Repr

/-- What an operation returns to the host (spec/40_engine.md R120, column "result"). -/
inductive HostResult
  | none
  | success
  | boundaryViolation
  | cycle (r : CycleResult)
  | framebuffer (fb : FrameBuffer) (changed : Bool)
  | timers (dt st : Byte)
  | state (s : State)
deriving DecidableEq, Repr

/-- The numeric codes of spec/60_exceptions.md R320 for the cycle errors. -/
def ErrorKind.code : ErrorKind → Nat
  | .unsupportedInstruction => 2
  | .stackOverflow => 3
  | .stackUnderflow => 4
  | .addressViolation => 5
  | .keyRangeViolation => 6
  | .glyphWriteViolation => 7

/-- The numeric code of the load error BoundaryViolation (spec/60_exceptions.md R320). -/
def boundaryViolationCode : Nat := 1

/-- The result of the cycle that left `t` (spec/40_engine.md R121). -/
def cycleResult (t : State) : CycleResult :=
  match t.mode with
  | .running => .ok
  | .awaitingKey _ => .awaitingKey
  | .halted => .err (t.err.map fun e => e.kind)

/-- `reset()` (spec/70_reset_and_hazards.md R360): every component of the spec's state at its reset value; the machine's parameters
and the count of draws, the model's own, are kept (log entry 3). -/
def resetOp (s : State) : State := { State.reset with params := s.params, draws := s.draws }

/-- `load(origin, bytes)` (spec/20_memory.md R74). -/
def loadOp (origin : Word) (bytes : List Byte) (s : State) : State × HostResult :=
  if WellFormed.load origin bytes then (s.setBytes origin.toNat bytes, .success) else (s, .boundaryViolation)

/-- `set_key(code, pressed)` (spec/40_engine.md R131): a key-down event ends a wait. -/
def setKeyOp (code : Fin 16) (pressed : Bool) (s : State) : State :=
  match pressed, s.mode with
  | true, .awaitingKey x => completeWait (s.setKeyFlag code true) x code
  | _, _ => s.setKeyFlag code pressed

/-- `read_framebuffer()` (spec/40_engine.md R132): a copy of FB and FB_CHANGED, then FB_CHANGED <- 0. -/
def readFramebufferOp (s : State) : State × HostResult := ({ s with fbChanged := false }, .framebuffer s.fb s.fbChanged)

/-- One host operation: the state after it and its result. `tick_timers()` exists only under decoupled (spec/40_engine.md R130). -/
def hostOp (op : HostOp) (s : State) : Host.Outcome (State × HostResult) Fault Refusal :=
  match op with
  | .reset => .next (resetOp s, .none)
  | .load origin bytes => .next (loadOp origin bytes s)
  | .cycle =>
    match step s with
    | .next t => .next (t, .cycle (cycleResult t))
    | .fault r => .fault r
    | .refused r => .refused r
  | .tickTimers =>
    match s.params.timerCoupling with
    | .decoupled => .next (s.tick, .none)
    | .perCycle => .refused .tickTimersNotOffered
  | .setKey code pressed => .next (setKeyOp code pressed s, .none)
  | .readFramebuffer => .next (readFramebufferOp s)
  | .readTimers => .next (s, .timers s.dt s.st)
  | .readState => .next (s, .state s)

/-- A run: the operations in their order, each on the state the one before it left, with their results. -/
def run : List HostOp → State → Host.Outcome (State × List HostResult) Fault Refusal
  | [], s => .next (s, [])
  | op :: rest, s =>
    match hostOp op s with
    | .fault r => .fault r
    | .refused r => .refused r
    | .next (t, r) =>
      match run rest t with
      | .fault f => .fault f
      | .refused f => .refused f
      | .next (u, rs) => .next (u, r :: rs)

end Sys2Proof.Machine
end

