-- ==== Sys2Proof/Safety.lean ====
section
/-! DEFINITION. What the claims are stated in: the components of the state and what stays unchanged, the invariant of the machine,
which errors an instruction can raise, and when a run is safe. -/

namespace Sys2Proof.Machine

/-- A component of the state: one register, one byte of memory, or one of the other fields (spec/10_state.md R20). -/
inductive Component
  | v (x : Reg)
  | i
  | pc
  | stack
  | sp
  | dt
  | st
  | keys
  | fb
  | fbChanged
  | mode
  | err
  | mem (a : Nat)
  | params
  | draws
deriving DecidableEq, Repr

/-- The component holds the same value in both states; a byte of memory as the model reads one byte. -/
def Component.same (c : Component) (s t : State) : Prop :=
  match c with
  | .v x => t.reg x = s.reg x
  | .i => t.i = s.i
  | .pc => t.pc = s.pc
  | .stack => t.stack = s.stack
  | .sp => t.sp = s.sp
  | .dt => t.dt = s.dt
  | .st => t.st = s.st
  | .keys => t.keys = s.keys
  | .fb => t.fb = s.fb
  | .fbChanged => t.fbChanged = s.fbChanged
  | .mode => t.mode = s.mode
  | .err => t.err = s.err
  | .mem a => t.byteAt a = s.byteAt a
  | .params => t.params = s.params
  | .draws => t.draws = s.draws

/-- From `s` to `t` nothing changed but the components named: every other register, byte of memory and field is as before. -/
def UnchangedBut (touched : List Component) (s t : State) : Prop :=
  ∀ c : Component, c ∉ touched → c.same s t

/-- The registers V0 to VX. -/
def regsTouched (x : Reg) : List Component := (List.finRange 16).filterMap fun r => if r ≤ x then some (.v r) else none

/-- The bytes of memory that a store of `n` bytes at I, I + 1, ... is addressed to: the model's own effective addresses, after the
model's own address check. -/
def storeTouched (s : State) (n : Nat) : List Component :=
  (List.range n).filterMap fun k =>
    match resolve s.params.addrPolicy (effectiveAddr s k) with
    | .ok a => some (.mem a)
    | .error _ => none

/-- Every component of the spec's state is at its reset value (spec/70_reset_and_hazards.md R360); the addresses of memory are
0x000 to 0xFFF (spec/20_memory.md R60). -/
structure AtReset (t : State) : Prop where
  glyphs    : ∀ (a : Nat) (h : a < 0x50), t.byteAt a = t.params.glyphTable[a]
  zeroes    : ∀ a, 0x50 ≤ a → a < 0x1000 → t.byteAt a = 0
  regs      : ∀ x, t.reg x = 0
  i         : t.i = 0
  pc        : t.pc = 0x200
  stack     : ∀ (j : Nat) (h : j < 16), t.stack[j]'h = 0
  sp        : t.sp = 0
  dt        : t.dt = 0
  st        : t.st = 0
  keys      : ∀ k, t.key k = false
  fb        : ∀ px < 64, ∀ py < 32, t.fb.pixel px py = false
  fbChanged : t.fbChanged = true
  mode      : t.mode = .running
  err       : t.err = none

/-- The invariant of the machine. Its clause on memory is of the model's own form; the others are the spec's. -/
structure MachineInv (s : State) : Prop where
  /-- Memory is in its canonical form, which is the model's own (log entry 11: DESIGN CHOICE). -/
  memory : Memory.wf s.params.glyphTable s.mem = true
  /-- "Under ADDR_POLICY = reject, PC never exceeds 0x10FE" (spec/10_state.md R24). -/
  pc : s.params.addrPolicy = .reject → s.pc.toNat ≤ 0x10FE
  /-- A return address is PC + 2 of a PC from which a full word was fetched (spec/10_state.md R24). -/
  returns : s.params.addrPolicy = .reject → ∀ (j : Nat) (h : j < Config.stackDepth), (s.stack[j]'h).toNat ≤ 0x1000
  /-- A waiting engine stands on an FX0A it fetched (spec/10_state.md R31). -/
  waiting : s.params.addrPolicy = .reject → ∀ x, s.mode = .awaitingKey x → s.pc.toNat ≤ 0xFFE
  /-- Halted exactly when an error is recorded (spec/10_state.md R31, R32). -/
  status : s.mode = .halted ↔ s.err.isSome = true

/-- The errors an instruction can raise at execution (the table of spec/60_exceptions.md R322). -/
def errorsOf : Instr → List ErrorKind
  | .ret => [.stackUnderflow]
  | .call _ => [.stackOverflow]
  | .drw _ _ _ => [.addressViolation]
  | .skp _ => [.keyRangeViolation]
  | .sknp _ => [.keyRangeViolation]
  | .ldB _ => [.addressViolation, .glyphWriteViolation]
  | .ldMemVx _ => [.addressViolation, .glyphWriteViolation]
  | .ldVxMem _ => [.addressViolation]
  | .cls | .jp _ | .seImm _ _ | .sneImm _ _ | .seReg _ _ | .ldImm _ _ | .addImm _ _ | .ldReg _ _ | .orReg _ _ | .andReg _ _
  | .xorReg _ _ | .addReg _ _ | .subReg _ _ | .shr _ _ | .subnReg _ _ | .shl _ _ | .sneReg _ _ | .ldI _ | .jpV0 _ | .rnd _ _
  | .ldVxDt _ | .ldVxK _ | .ldDtVx _ | .ldStVx _ | .addI _ | .ldF _ => []

/-- The pixel of a sprite at column `dx`, row `dy` of the sprite: bit 7 of a byte is column 0 (spec/44_display.md R260). -/
def spriteBit (rows : List Byte) (dx dy : Nat) : Bool :=
  match rows[dy]? with
  | some row => row.getMsbD dx
  | none => false

/-- The sprite's bit that falls on column `px`, row `py` of the framebuffer when the sprite starts at (x, y), wrapping in both axes
(spec/44_display.md R260, R262): a coordinate is `x + dx` modulo 64 for exactly one `dx` below 64. -/
def spriteOn (x y : Nat) (rows : List Byte) (px py : Nat) : Bool :=
  spriteBit rows ((px + Config.fbWidth - x % Config.fbWidth) % Config.fbWidth)
    ((py + Config.fbHeight - y % Config.fbHeight) % Config.fbHeight)

/-- Every one of the `n` bytes at I, I + 1, ... can be stored: its address passes the address check, and it lies outside the glyph
table or GLYPH_WRITE_POLICY is not fault (spec/20_memory.md R63, R64). -/
def Storable (s : State) (n : Nat) : Prop :=
  ∀ k < n, ∃ c, resolve s.params.addrPolicy (effectiveAddr s k) = .ok c ∧
    (Config.glyphSize ≤ c ∨ s.params.glyphWritePolicy ≠ .fault)

/-- Every one of the `n` bytes at I, I + 1, ... can be read. -/
def Readable (s : State) (n : Nat) : Prop :=
  ∀ k < n, ∃ c, resolve s.params.addrPolicy (effectiveAddr s k) = .ok c

/-- In `t` the bytes stand at I, I + 1, ... of `s`, but for those that the policy `ignore` dropped from the glyph table, whose
addresses read as before (spec/20_memory.md R64). -/
def Stored (s t : State) (bytes : List Byte) : Prop :=
  ∀ (k : Nat) (h : k < bytes.length) (c : Nat), resolve s.params.addrPolicy (effectiveAddr s k) = .ok c →
    t.byteAt c = if Config.glyphSize ≤ c ∨ s.params.glyphWritePolicy = .write then bytes[k] else s.byteAt c

/-- Executing `i` in `s` raises `k`, and the error is taken: ERR records the kind, PC and the word, MODE is Halted, and nothing else
changes (spec/40_engine.md R128, R129; 60_exceptions.md R324). -/
def Aborts (i : Instr) (s : State) (k : ErrorKind) : Prop :=
  ∃ t, exec i s = .next t ∧ t.mode = .halted ∧ t.err = some ⟨k, s.pc, some (encode i)⟩ ∧ UnchangedBut [.mode, .err] s t

/-- The sprite rows that DXYN reads: N bytes at I, I + 1, ..., the address taken modulo 4096, which changes nothing where it is
below 4096 already (spec/44_display.md R262, 20_memory.md R63). -/
def spriteRows (s : State) (n : Nat) : List Byte :=
  (List.range n).map fun k => s.byteAt (effectiveAddr s k % Config.memSize)

/-- The pixel of `fb` at (px, py) is 1 and the sprite toggles it. -/
def Collides (fb : FrameBuffer) (x y : Nat) (rows : List Byte) : Prop :=
  ∃ px < Config.fbWidth, ∃ py < Config.fbHeight, fb.pixel px py = true ∧ spriteOn x y rows px py = true

/-- A state no error has stopped. -/
def safe (s : State) : Bool := decide (s.mode ≠ .halted)

end Sys2Proof.Machine
end

