-- ==== Sys2Proof/Certificates/Slice0/Obligations.lean ====
section
/-! DEFINITION. The statements for the provers, from the numbered rules of spec/. -/

open Sys2Proof Sys2Proof.Machine

/-! ## Encoding -/

/-- Decoding the word of an instruction gives it back, whatever its operands (spec/30_encoding.md R91, R92, R96). -/
def Obligations.DecodeOfEncodeIsTheInstruction : Prop :=
  ∀ i : Instr, decodeWord (encode i) = .ok i

/-- A word that decodes is the word of the instruction it decodes to: no bit of it is dropped (spec/30_encoding.md R91, R96). -/
def Obligations.EncodeOfDecodeIsTheWord : Prop :=
  ∀ (w : Word) (i : Instr), decodeWord w = .ok i → encode i = w

/-- The decoder accepts exactly the words that a row of the decode table matches (spec/30_encoding.md R96, R97). -/
def Obligations.DecoderAcceptsExactlyTheTable : Prop :=
  ∀ w : Word, (∃ i, decodeWord w = .ok i) ↔ ∃ r ∈ decodeTable, w &&& r.mask = r.pattern

/-- "No two rows match the same word" (spec/30_encoding.md R96). -/
def Obligations.NoWordMatchesTwoRows : Prop :=
  ∀ (w : Word) (j k : Nat) (hj : j < decodeTable.length) (hk : k < decodeTable.length),
    w &&& decodeTable[j].mask = decodeTable[j].pattern → w &&& decodeTable[k].mask = decodeTable[k].pattern → j = k

/-- Words of each family read as the spec's decode vectors say (spec/30_encoding.md R96 to R99, 95_test_vectors.md 2.1). -/
def Obligations.SpecWordsDecodeAsListed : Prop :=
  decodeWord 0x600A = .ok (.ldImm 0 0x0A) ∧ decodeWord 0x00E0 = .ok .cls ∧ decodeWord 0x1FFF = .ok (.jp 0xFFF) ∧
    decodeWord 0x8127 = .ok (.subnReg 1 2) ∧ decodeWord 0xD000 = .ok (.drw 0 0 0) ∧ decodeWord 0xE19E = .ok (.skp 1) ∧
    decodeWord 0xF10A = .ok (.ldVxK 1) ∧ decodeWord 0xFF65 = .ok (.ldVxMem 15) ∧
    decodeWord 0x0000 = .error (.systemCall 0x0000) ∧ decodeWord 0x5121 = .error (.family5 0x5121)

/-! ## The cycle -/

/-- Fetch reads two bytes, the first the high byte; where the second lies outside memory it fails under reject, and the cycle
records AddressViolation with no word; under wrap both addresses are taken modulo 4096, so that a fetch at 0xFFF reads 0xFFF and 0x000
(spec/40_engine.md R124). -/
def Obligations.FetchIsBigEndianOrFails : Prop :=
  ∀ s : State,
    (s.pc.toNat + 1 < 0x1000 →
      ∃ w, fetch s = .ok w ∧ w.toNat = (s.byteAt s.pc.toNat).toNat * 256 + (s.byteAt (s.pc.toNat + 1)).toNat) ∧
    (s.params.addrPolicy = .reject → 0xFFF ≤ s.pc.toNat → fetch s = .error .addressViolation ∧
      (s.mode = .running → ∃ t, step s = .next t ∧ t.mode = .halted ∧ t.err = some ⟨.addressViolation, s.pc, none⟩ ∧
        UnchangedBut [.mode, .err] s t)) ∧
    (s.params.addrPolicy = .wrap → ∃ w, fetch s = .ok w ∧
      w.toNat = (s.byteAt (s.pc.toNat % 0x1000)).toNat * 256 + (s.byteAt ((s.pc.toNat + 1) % 0x1000)).toNat)

/-- A Running cycle whose two bytes at PC decode to `i` is the execution of `i` and then the end of the cycle: the tick, unless the
execution halted (spec/40_engine.md R121, R124, R125, R126). -/
def Obligations.StepRunsTheDecodedInstruction : Prop :=
  ∀ (s t : State) (hi lo : Byte) (i : Instr), s.mode = .running →
    memRead s s.pc.toNat = .ok hi → memRead s (s.pc.toNat + 1) = .ok lo → decodeWord (wordOfBytes hi lo) = .ok i →
    exec i s = .next t → step s = .next (endCycle t)

/-- A word placed for the next fetch is the word the next step fetches, with the engine Running; where a word can be fetched at PC the
placing changes MODE and those two bytes alone, and elsewhere it also sets PC to 0x200 (the placing is the model's own choice, log
entry 8; the fetch is spec/40_engine.md R124). -/
def Obligations.PlacedWordIsFetchedNext : Prop :=
  ∀ (s : State) (w : Nat), Memory.wf s.params.glyphTable s.mem = true → w < 65536 →
    fetch (s.withFetchWord 16 w) = .ok (BitVec.ofNat 16 w) ∧ (s.withFetchWord 16 w).mode = .running ∧
      (s.params.addrPolicy = .wrap ∨ s.pc.toNat + 1 < 0x1000 →
        UnchangedBut [.mode, .mem (s.pc.toNat % 0x1000), .mem ((s.pc.toNat + 1) % 0x1000)] s (s.withFetchWord 16 w)) ∧
      (s.params.addrPolicy = .reject → 0xFFF ≤ s.pc.toNat →
        (s.withFetchWord 16 w).pc = 0x200 ∧ UnchangedBut [.mode, .pc, .mem 0x200, .mem 0x201] s (s.withFetchWord 16 w))

/-- A word that no row of the table matches raises UnsupportedInstruction with the word and PC as context: it is neither guessed nor
skipped (spec/30_encoding.md R97 to R99, 40_engine.md R125). -/
def Obligations.UnsupportedWordHalts : Prop :=
  ∀ (s : State) (w : Word), s.mode = .running → fetch s = .ok w → (∀ r ∈ decodeTable, w &&& r.mask ≠ r.pattern) →
    ∃ t, step s = .next t ∧ t.mode = .halted ∧ t.err = some ⟨.unsupportedInstruction, s.pc, some w⟩ ∧
      UnchangedBut [.mode, .err] s t

/-- A cycle while Halted changes nothing and returns Err(ERR.kind); no operation but reset leaves Halted or replaces ERR
(spec/40_engine.md R122, 60_exceptions.md R325). -/
def Obligations.HaltedUntilReset : Prop :=
  ∀ (s : State) (e : ErrorRecord), s.mode = .halted → s.err = some e →
    hostOp .cycle s = .next (s, .cycle (.err (some e.kind))) ∧
    (∀ op t r, hostOp op s = .next (t, r) → op ≠ .reset → t.mode = .halted ∧ t.err = some e) ∧
    (∃ t, hostOp .reset s = .next (t, .none) ∧ t.mode = .running ∧ t.err = none)

/-- A cycle while AwaitingKey fetches and executes nothing and returns AwaitingKey: it only ticks, under per_cycle; the wait ends only
by a key-down event or by reset (spec/40_engine.md R123, 60_exceptions.md R333). -/
def Obligations.WaitingCycleOnlyTicks : Prop :=
  ∀ (s : State) (x : Reg), s.mode = .awaitingKey x →
    (∃ t, hostOp .cycle s = .next (t, .cycle .awaitingKey) ∧ UnchangedBut [.dt, .st] s t ∧
      (s.params.timerCoupling = .perCycle → t.dt.toNat = s.dt.toNat - 1 ∧ t.st.toNat = s.st.toNat - 1) ∧
      (s.params.timerCoupling = .decoupled → t = s)) ∧
    (∀ op t r, hostOp op s = .next (t, r) → op ≠ .reset → (∀ c, op ≠ .setKey c true) → t.mode = .awaitingKey x)

/-- The tick: after the instruction of every cycle that did not abort, and in every cycle while AwaitingKey, both timers lose 1 if
nonzero under per_cycle; under decoupled a cycle never ticks; nothing else changes (spec/40_engine.md R127). The cycle returns Ok when
it leaves the engine Running and AwaitingKey when it leaves it waiting (R121). -/
def Obligations.CompletedCycleTicksBothTimers : Prop :=
  ∀ s u : State,
    ((s.mode = .running ∧ u.mode ≠ .halted ∧ ∃ w i, fetch s = .ok w ∧ decodeWord w = .ok i ∧ exec i s = .next u) ∨
      ((∃ x, s.mode = .awaitingKey x) ∧ u = s)) →
    ∃ t, step s = .next t ∧ UnchangedBut [.dt, .st] u t ∧
      (u.mode = .running → hostOp .cycle s = .next (t, .cycle .ok)) ∧
      (∀ x, u.mode = .awaitingKey x → hostOp .cycle s = .next (t, .cycle .awaitingKey)) ∧
      (s.params.timerCoupling = .perCycle → t.dt.toNat = u.dt.toNat - 1 ∧ t.st.toNat = u.st.toNat - 1) ∧
      (s.params.timerCoupling = .decoupled → t = u)

/-- Errors are precise: a Running cycle that ends Halted changed nothing but MODE and ERR (so no tick happened); ERR records PC and the
fetched word, or no word when the fetch failed; and the cycle returns Err of that kind (spec/40_engine.md R128, R129). -/
def Obligations.FailedCycleChangesOnlyModeAndErr : Prop :=
  ∀ s t : State, s.mode = .running → step s = .next t → t.mode = .halted →
    UnchangedBut [.mode, .err] s t ∧
      ∃ k w, t.err = some ⟨k, s.pc, w⟩ ∧ hostOp .cycle s = .next (t, .cycle (.err (some k))) ∧
        (∀ v, fetch s = .ok v → w = some v) ∧ (∀ e, fetch s = .error e → w = none)

/-- Every cycle answers a next state: no instruction, word or mode stops the machine with a fault or a refusal (spec/40_engine.md
R121; log entry 5). -/
def Obligations.EveryCycleAnswersNext : Prop :=
  ∀ s : State, ∃ t, step s = .next t

/-- The errors an instruction raises at execution are among those the table lists for it, and are recorded with PC and its word
(spec/60_exceptions.md R322). -/
def Obligations.InstructionRaisesOnlyListedErrors : Prop :=
  ∀ (i : Instr) (s t : State), s.mode ≠ .halted → exec i s = .next t → t.mode = .halted →
    ∃ k ∈ errorsOf i, t.err = some ⟨k, s.pc, some (encode i)⟩ ∧ UnchangedBut [.mode, .err] s t

/-! ## Invariants and whole-machine rules -/

/-- What reset leaves: the machine right after reset has every component at its reset value, and `reset()` answers in every state,
whatever its MODE, a state that has (spec/70_reset_and_hazards.md R360). -/
def Obligations.ResetLeavesTheSpecifiedState : Prop :=
  AtReset State.reset ∧ ∀ s : State, ∃ t, hostOp .reset s = .next (t, .none) ∧ AtReset t

/-- The invariant holds right after reset, and after `reset()` in any state. Its clause on memory, the canonical list form, is the
model's own (log entry 11: DESIGN CHOICE); the others are spec/10_state.md R24, R31, R32. -/
def Obligations.InvariantHoldsAfterReset : Prop :=
  MachineInv State.reset ∧ ∀ s t r, hostOp .reset s = .next (t, r) → MachineInv t

/-- Every step keeps the invariant: under reject PC at most 0x10FE, return addresses at most 0x1000 and a waiting engine's PC at most
0xFFE; Halted exactly when an error is recorded (spec/10_state.md R24, R31, R32); and memory canonical, a form that is the model's own
(log entry 11: DESIGN CHOICE). -/
def Obligations.StepKeepsTheInvariant : Prop :=
  ∀ s t : State, MachineInv s → step s = .next t → MachineInv t

/-- Every run of host operations, in whatever order, keeps the invariant (spec/20_memory.md R71, 40_engine.md R133); its clause on
memory, the canonical list form, is the model's own (log entry 11: DESIGN CHOICE). -/
def Obligations.EveryRunKeepsTheInvariant : Prop :=
  ∀ (ops : List HostOp) (s t : State) (rs : List HostResult), MachineInv s → run ops s = .next (t, rs) → MachineInv t

/-- The glyph table is immutable unless GLYPH_WRITE_POLICY is write: no operation but reset changes a byte of it, stores through I
and loads included (spec/20_memory.md R61, R64, R74). -/
def Obligations.GlyphTableIsImmutable : Prop :=
  ∀ (op : HostOp) (s t : State) (r : HostResult), s.params.glyphWritePolicy ≠ .write → op ≠ .reset →
    hostOp op s = .next (t, r) → ∀ a < 0x50, t.byteAt a = s.byteAt a

/-- No cycle writes the key state (spec/10_state.md R28), and none changes the parameters, which are a field of the model's own state
(log entry 1: DESIGN CHOICE). -/
def Obligations.NoCycleWritesKeys : Prop :=
  ∀ s t : State, step s = .next t → t.keys = s.keys ∧ t.params = s.params

/-- No instruction but 2NNN and 00EE touches the call stack, and 00EE keeps every entry (spec/10_state.md R25, R26). -/
def Obligations.OnlyCallAndReturnTouchTheStack : Prop :=
  ∀ (i : Instr) (s t : State), exec i s = .next t →
    ((∀ nnn, i ≠ .call nnn) → t.stack = s.stack) ∧ ((∀ nnn, i ≠ .call nnn) → i ≠ .ret → t.sp = s.sp)

/-- The framebuffer and FB_CHANGED are written only by 00E0 and DXYN (spec/10_state.md R29, R30). -/
def Obligations.OnlyClearAndDrawWriteTheFramebuffer : Prop :=
  ∀ (i : Instr) (s t : State), exec i s = .next t → i ≠ .cls → (∀ x y n, i ≠ .drw x y n) →
    t.fb = s.fb ∧ t.fbChanged = s.fbChanged

/-- FX0A is the only instruction that suspends the engine, and an instruction that neither waits nor fails leaves MODE alone
(spec/60_exceptions.md R328, R333). -/
def Obligations.OnlyKeyWaitSuspends : Prop :=
  ∀ (i : Instr) (s t : State), exec i s = .next t →
    (∃ x, i = .ldVxK x ∧ t.mode = .awaitingKey x) ∨ t.mode = s.mode ∨ t.mode = .halted

/-! ## Memory -/

/-- `MemRead`: the byte below 4096; at or above it AddressViolation under reject, the byte modulo 4096 under wrap
(spec/20_memory.md R63). -/
def Obligations.ReadFollowsTheAddressPolicy : Prop :=
  ∀ (s : State) (a : Nat),
    (a < 4096 → memRead s a = .ok (s.byteAt a)) ∧
    (4096 ≤ a → s.params.addrPolicy = .reject → memRead s a = .error .addressViolation) ∧
    (4096 ≤ a → s.params.addrPolicy = .wrap → memRead s a = .ok (s.byteAt (a % 4096)))

/-- `MemWrite`: the address check of `MemRead`; below 0x050 the glyph policy; else the byte is written; a write changes that byte alone
(spec/20_memory.md R64), and it keeps memory canonical, a form that is the model's own (log entry 11: DESIGN CHOICE). -/
def Obligations.WriteFollowsBothPolicies : Prop :=
  ∀ (s : State) (a b : Nat) (v : Byte), Memory.wf s.params.glyphTable s.mem = true →
    (4096 ≤ a → s.params.addrPolicy = .reject → memWrite s a v = .error .addressViolation) ∧
    ((a < 4096 ∧ b = a) ∨ (4096 ≤ a ∧ s.params.addrPolicy = .wrap ∧ b = a % 4096) →
      (b ≤ 0x04F → s.params.glyphWritePolicy = .fault → memWrite s a v = .error .glyphWriteViolation) ∧
      (b ≤ 0x04F → s.params.glyphWritePolicy = .ignore → memWrite s a v = .ok s) ∧
      (0x04F < b ∨ s.params.glyphWritePolicy = .write →
        ∃ t, memWrite s a v = .ok t ∧ t.byteAt b = v ∧ UnchangedBut [.mem b] s t ∧
          Memory.wf t.params.glyphTable t.mem = true))

/-! ## Host operations -/

/-- `load`: success exactly when the origin is at least 0x200 and origin + L at most 0x1000; it writes the L bytes and changes nothing
else; otherwise BoundaryViolation and no state changed; in every MODE (spec/20_memory.md R74). -/
def Obligations.LoadCopiesItsBytesOrRefuses : Prop :=
  ∀ (s : State) (origin : Word) (bytes : List Byte), Memory.wf s.params.glyphTable s.mem = true →
    (0x200 ≤ origin.toNat ∧ origin.toNat + bytes.length ≤ 0x1000 →
      ∃ t, hostOp (.load origin bytes) s = .next (t, .success) ∧
        (∀ (j : Nat) (h : j < bytes.length), t.byteAt (origin.toNat + j) = bytes[j]) ∧
        UnchangedBut ((List.range bytes.length).map fun j => .mem (origin.toNat + j)) s t) ∧
    (origin.toNat < 0x200 ∨ 0x1000 < origin.toNat + bytes.length →
      hostOp (.load origin bytes) s = .next (s, .boundaryViolation))

/-- `set_key`: the key's flag takes the value; a press while AwaitingKey(x) completes the wait: V[x] is the code, PC is past the FX0A,
MODE is Running; nothing else changes, no timer ticks (spec/40_engine.md R131, 45_input.md R284). -/
def Obligations.KeyEventSetsFlagAndEndsWait : Prop :=
  ∀ (s : State) (code : Fin 16) (pressed : Bool),
    ∃ t, hostOp (.setKey code pressed) s = .next (t, .none) ∧ t.key code = pressed ∧ (∀ k, k ≠ code → t.key k = s.key k) ∧
      (∀ x, pressed = true → s.mode = .awaitingKey x →
        (t.reg x).toNat = code.val ∧ t.pc = s.pc + 2 ∧ t.mode = .running ∧ UnchangedBut [.keys, .v x, .pc, .mode] s t) ∧
      (pressed = false ∨ (∀ x, s.mode ≠ .awaitingKey x) → UnchangedBut [.keys] s t)

/-- The read accessors: `read_framebuffer` returns FB and FB_CHANGED and clears FB_CHANGED; `read_timers` and `read_state` return what
they name and change nothing (spec/40_engine.md R132). -/
def Obligations.ReadAccessorsReturnTheState : Prop :=
  ∀ s : State,
    (∃ t, hostOp .readFramebuffer s = .next (t, .framebuffer s.fb s.fbChanged) ∧ t.fbChanged = false ∧
      UnchangedBut [.fbChanged] s t) ∧
    hostOp .readTimers s = .next (s, .timers s.dt s.st) ∧ hostOp .readState s = .next (s, .state s)

/-- `tick_timers`: under decoupled it ticks both timers and nothing else, in every MODE (spec/40_engine.md R130); under per_cycle the
model refuses it by name (log entry 14: DEDUCED). -/
def Obligations.TickTimersOnlyWhenDecoupled : Prop :=
  ∀ s : State,
    (s.params.timerCoupling = .decoupled → ∃ t, hostOp .tickTimers s = .next (t, .none) ∧ t.dt.toNat = s.dt.toNat - 1 ∧
      t.st.toNat = s.st.toNat - 1 ∧ UnchangedBut [.dt, .st] s t) ∧
    (s.params.timerCoupling = .perCycle → hostOp .tickTimers s = .refused .tickTimersNotOffered)

/-! ## Set, copy and arithmetic -/

/-- 6XNN and 7XNN, VF as an ordinary register included; no flag (spec/41_arithmetic.md R161, R162). -/
def Obligations.ImmediateLoadAndAdd : Prop :=
  ∀ (s : State) (x : Reg) (nn : Byte),
    (encode (.ldImm x nn)).toNat = 0x6000 + x.val * 0x100 + nn.toNat ∧
    (encode (.addImm x nn)).toNat = 0x7000 + x.val * 0x100 + nn.toNat ∧
    (∃ t, exec (.ldImm x nn) s = .next t ∧ t.reg x = nn ∧ t.pc = s.pc + 2 ∧ UnchangedBut [.v x, .pc] s t) ∧
    (∃ t, exec (.addImm x nn) s = .next t ∧ (t.reg x).toNat = ((s.reg x).toNat + nn.toNat) % 256 ∧ t.pc = s.pc + 2 ∧
      UnchangedBut [.v x, .pc] s t)

/-- 8XY0 to 8XY3: copy, or, and, xor; VF is unchanged unless X = 0xF (spec/41_arithmetic.md R163 to R166). -/
def Obligations.CopyAndLogicWriteNoFlag : Prop :=
  ∀ (s : State) (x y : Reg),
    ((encode (.ldReg x y)).toNat = 0x8000 + x.val * 0x100 + y.val * 0x10 ∧
      (encode (.orReg x y)).toNat = 0x8001 + x.val * 0x100 + y.val * 0x10 ∧
      (encode (.andReg x y)).toNat = 0x8002 + x.val * 0x100 + y.val * 0x10 ∧
      (encode (.xorReg x y)).toNat = 0x8003 + x.val * 0x100 + y.val * 0x10) ∧
    (∃ t, exec (.ldReg x y) s = .next t ∧ t.reg x = s.reg y ∧ t.pc = s.pc + 2 ∧ UnchangedBut [.v x, .pc] s t) ∧
    (∃ t, exec (.orReg x y) s = .next t ∧
      (∀ j, (t.reg x).getLsbD j = ((s.reg x).getLsbD j || (s.reg y).getLsbD j)) ∧ t.pc = s.pc + 2 ∧ UnchangedBut [.v x, .pc] s t) ∧
    (∃ t, exec (.andReg x y) s = .next t ∧
      (∀ j, (t.reg x).getLsbD j = ((s.reg x).getLsbD j && (s.reg y).getLsbD j)) ∧ t.pc = s.pc + 2 ∧ UnchangedBut [.v x, .pc] s t) ∧
    (∃ t, exec (.xorReg x y) s = .next t ∧
      (∀ j, (t.reg x).getLsbD j = ((s.reg x).getLsbD j ^^ (s.reg y).getLsbD j)) ∧ t.pc = s.pc + 2 ∧ UnchangedBut [.v x, .pc] s t)

/-- 8XY4: the sum modulo 256, and VF = 1 iff the exact sum exceeds 255, written last (spec/41_arithmetic.md R167). -/
def Obligations.AddSetsCarry : Prop :=
  ∀ (s : State) (x y : Reg),
    (encode (.addReg x y)).toNat = 0x8004 + x.val * 0x100 + y.val * 0x10 ∧
    ∃ t, exec (.addReg x y) s = .next t ∧
      (x ≠ VF → (t.reg x).toNat = ((s.reg x).toNat + (s.reg y).toNat) % 256) ∧
      (t.reg VF).toNat = (if (s.reg x).toNat + (s.reg y).toNat > 255 then 1 else 0) ∧
      t.pc = s.pc + 2 ∧ UnchangedBut [.v x, .v VF, .pc] s t

/-- 8XY5 and 8XY7: the difference modulo 256, and VF = 1 iff no borrow, written last (spec/41_arithmetic.md R168, R170). -/
def Obligations.SubtractsSetNotBorrow : Prop :=
  ∀ (s : State) (x y : Reg),
    (encode (.subReg x y)).toNat = 0x8005 + x.val * 0x100 + y.val * 0x10 ∧
    (encode (.subnReg x y)).toNat = 0x8007 + x.val * 0x100 + y.val * 0x10 ∧
    (∃ t, exec (.subReg x y) s = .next t ∧
      (x ≠ VF → (t.reg x).toNat = (256 + (s.reg x).toNat - (s.reg y).toNat) % 256) ∧
      (t.reg VF).toNat = (if (s.reg y).toNat ≤ (s.reg x).toNat then 1 else 0) ∧
      t.pc = s.pc + 2 ∧ UnchangedBut [.v x, .v VF, .pc] s t) ∧
    (∃ t, exec (.subnReg x y) s = .next t ∧
      (x ≠ VF → (t.reg x).toNat = (256 + (s.reg y).toNat - (s.reg x).toNat) % 256) ∧
      (t.reg VF).toNat = (if (s.reg x).toNat ≤ (s.reg y).toNat then 1 else 0) ∧
      t.pc = s.pc + 2 ∧ UnchangedBut [.v x, .v VF, .pc] s t)

/-- 8XY6 and 8XYE: shift the register SHIFT_SOURCE selects into V[x]; VF is the bit shifted out, written last
(spec/41_arithmetic.md R169, R171). -/
def Obligations.ShiftsSetTheBitShiftedOut : Prop :=
  ∀ (s : State) (x y : Reg) (src : Nat),
    (s.params.shiftSource = .vx ∧ src = (s.reg x).toNat) ∨ (s.params.shiftSource = .vy ∧ src = (s.reg y).toNat) →
    (encode (.shr x y)).toNat = 0x8006 + x.val * 0x100 + y.val * 0x10 ∧
    (encode (.shl x y)).toNat = 0x800E + x.val * 0x100 + y.val * 0x10 ∧
    (∃ t, exec (.shr x y) s = .next t ∧ (x ≠ VF → (t.reg x).toNat = src / 2) ∧ (t.reg VF).toNat = src % 2 ∧
      t.pc = s.pc + 2 ∧ UnchangedBut [.v x, .v VF, .pc] s t) ∧
    (∃ t, exec (.shl x y) s = .next t ∧ (x ≠ VF → (t.reg x).toNat = src * 2 % 256) ∧ (t.reg VF).toNat = src / 128 ∧
      t.pc = s.pc + 2 ∧ UnchangedBut [.v x, .v VF, .pc] s t)

/-- CXNN: V[x] is the drawn byte masked by NN, whatever the draw is; each execution takes one draw; no flag
(spec/41_arithmetic.md R172; the counting of draws is the model's own, log entry 2). -/
def Obligations.RandomIsAMaskedDraw : Prop :=
  ∀ (s : State) (x : Reg) (nn : Byte),
    (encode (.rnd x nn)).toNat = 0xC000 + x.val * 0x100 + nn.toNat ∧
    ∃ (t : State) (r : Byte), exec (.rnd x nn) s = .next t ∧ r = Config.draw s.draws ∧ t.draws = s.draws + 1 ∧
      (∀ j, (t.reg x).getLsbD j = (r.getLsbD j && nn.getLsbD j)) ∧ t.pc = s.pc + 2 ∧ UnchangedBut [.v x, .pc, .draws] s t

/-! ## Control flow -/

/-- 1NNN and BNNN: PC is NNN, or NNN + V0 with no reduction to 12 bits; no target is checked (spec/42_control.md R201, R208). -/
def Obligations.JumpsGoToTheirTarget : Prop :=
  ∀ (s : State) (nnn : Addr),
    (encode (.jp nnn)).toNat = 0x1000 + nnn.toNat ∧ (encode (.jpV0 nnn)).toNat = 0xB000 + nnn.toNat ∧
    (∃ t, exec (.jp nnn) s = .next t ∧ t.pc.toNat = nnn.toNat ∧ UnchangedBut [.pc] s t) ∧
    (∃ t, exec (.jpV0 nnn) s = .next t ∧ t.pc.toNat = nnn.toNat + (s.reg 0).toNat ∧ UnchangedBut [.pc] s t)

/-- 2NNN: push PC + 2 and jump; StackOverflow when SP = 16 (spec/42_control.md R202). -/
def Obligations.CallPushesTheReturnAddress : Prop :=
  ∀ (s : State) (nnn : Addr),
    (encode (.call nnn)).toNat = 0x2000 + nnn.toNat ∧
    (∀ h : s.sp.val < 16, ∃ t, exec (.call nnn) s = .next t ∧ t.stack = s.stack.set s.sp.val (s.pc + 2) h ∧
      t.sp.val = s.sp.val + 1 ∧ t.pc.toNat = nnn.toNat ∧ UnchangedBut [.stack, .sp, .pc] s t) ∧
    (s.sp.val = 16 → Aborts (.call nnn) s .stackOverflow)

/-- 00EE: pop and jump, the popped entry kept; StackUnderflow when SP = 0 (spec/42_control.md R203). -/
def Obligations.ReturnPopsItsTarget : Prop :=
  (encode .ret).toNat = 0x00EE ∧ ∀ s : State,
    (∀ (_ : 0 < s.sp.val) (h : s.sp.val - 1 < 16), ∃ t, exec .ret s = .next t ∧ t.sp.val = s.sp.val - 1 ∧
      t.pc = s.stack[s.sp.val - 1]'h ∧ UnchangedBut [.sp, .pc] s t) ∧
    (s.sp.val = 0 → Aborts .ret s .stackUnderflow)

/-- 3XNN, 4XNN, 5XY0, 9XY0: PC + 4 when the comparison holds, else PC + 2 (spec/42_control.md R204 to R207). -/
def Obligations.SkipsAdvanceByFourOrTwo : Prop :=
  ∀ (s : State) (x y : Reg) (nn : Byte),
    ((encode (.seImm x nn)).toNat = 0x3000 + x.val * 0x100 + nn.toNat ∧
      (encode (.sneImm x nn)).toNat = 0x4000 + x.val * 0x100 + nn.toNat ∧
      (encode (.seReg x y)).toNat = 0x5000 + x.val * 0x100 + y.val * 0x10 ∧
      (encode (.sneReg x y)).toNat = 0x9000 + x.val * 0x100 + y.val * 0x10) ∧
    (∃ t, exec (.seImm x nn) s = .next t ∧ t.pc = (if s.reg x = nn then s.pc + 4 else s.pc + 2) ∧ UnchangedBut [.pc] s t) ∧
    (∃ t, exec (.sneImm x nn) s = .next t ∧ t.pc = (if s.reg x = nn then s.pc + 2 else s.pc + 4) ∧ UnchangedBut [.pc] s t) ∧
    (∃ t, exec (.seReg x y) s = .next t ∧ t.pc = (if s.reg x = s.reg y then s.pc + 4 else s.pc + 2) ∧ UnchangedBut [.pc] s t) ∧
    (∃ t, exec (.sneReg x y) s = .next t ∧ t.pc = (if s.reg x = s.reg y then s.pc + 2 else s.pc + 4) ∧ UnchangedBut [.pc] s t)

/-- A call followed by a return comes back to the instruction after the call, with SP as before the call; but for PC and the one stack
entry the call wrote, which the return keeps, nothing has changed (spec/42_control.md R202, R203; 95_test_vectors.md W9). -/
def Obligations.CallThenReturnComesBack : Prop :=
  ∀ (s : State) (nnn : Addr) (h : s.sp.val < 16),
    ∃ t u, exec (.call nnn) s = .next t ∧ exec .ret t = .next u ∧ u.pc = s.pc + 2 ∧ u.sp = s.sp ∧
      u.stack = s.stack.set s.sp.val (s.pc + 2) h ∧ UnchangedBut [.pc, .stack] s u

/-! ## Memory and index -/

/-- ANNN, FX1E, FX29: I is NNN, I + V[x] modulo 2^16, or 5 times the low nibble of V[x]; no flag
(spec/43_memory_index.md R231 to R233). -/
def Obligations.IndexWrites : Prop :=
  ∀ (s : State) (x : Reg) (nnn : Addr),
    ((encode (.ldI nnn)).toNat = 0xA000 + nnn.toNat ∧ (encode (.addI x)).toNat = 0xF01E + x.val * 0x100 ∧
      (encode (.ldF x)).toNat = 0xF029 + x.val * 0x100) ∧
    (∃ t, exec (.ldI nnn) s = .next t ∧ t.i.toNat = nnn.toNat ∧ t.pc = s.pc + 2 ∧ UnchangedBut [.i, .pc] s t) ∧
    (∃ t, exec (.addI x) s = .next t ∧ t.i.toNat = (s.i.toNat + (s.reg x).toNat) % 65536 ∧ t.pc = s.pc + 2 ∧
      UnchangedBut [.i, .pc] s t) ∧
    (∃ t, exec (.ldF x) s = .next t ∧ t.i.toNat = 5 * ((s.reg x).toNat % 16) ∧ t.pc = s.pc + 2 ∧ UnchangedBut [.i, .pc] s t)

/-- FX33: hundreds, tens and units to I, I + 1, I + 2, I kept; AddressViolation when I + 2 is outside memory under reject,
GlyphWriteViolation when an address is in the glyph table under fault, both with no effect (spec/43_memory_index.md R234). -/
def Obligations.BcdStoresThreeDigits : Prop :=
  ∀ (s : State) (x : Reg), Memory.wf s.params.glyphTable s.mem = true →
    (encode (.ldB x)).toNat = 0xF033 + x.val * 0x100 ∧
    (Storable s 3 → ∃ (t : State) (h m u : Byte), exec (.ldB x) s = .next t ∧ h.toNat = (s.reg x).toNat / 100 ∧
      m.toNat = (s.reg x).toNat / 10 % 10 ∧ u.toNat = (s.reg x).toNat % 10 ∧ Stored s t [h, m, u] ∧ t.pc = s.pc + 2 ∧
      UnchangedBut (.pc :: storeTouched s 3) s t) ∧
    (s.params.addrPolicy = .reject → 0x1000 ≤ s.i.toNat + 2 → Aborts (.ldB x) s .addressViolation) ∧
    (s.params.glyphWritePolicy = .fault →
      (∃ k < 3, ∃ c < 0x50, resolve s.params.addrPolicy (effectiveAddr s k) = .ok c) → Aborts (.ldB x) s .glyphWriteViolation)

/-- FX55: V0 to VX to I, I + 1, ..., VF included, I kept; the same two errors, with nothing written
(spec/43_memory_index.md R235). -/
def Obligations.BulkStoreWritesRegistersInOrder : Prop :=
  ∀ (s : State) (x : Reg), Memory.wf s.params.glyphTable s.mem = true →
    (encode (.ldMemVx x)).toNat = 0xF055 + x.val * 0x100 ∧
    (Storable s (x.val + 1) → ∃ t, exec (.ldMemVx x) s = .next t ∧
      Stored s t ((List.finRange 16).filterMap fun r => if r ≤ x then some (s.reg r) else none) ∧ t.pc = s.pc + 2 ∧
      UnchangedBut (.pc :: storeTouched s (x.val + 1)) s t) ∧
    (s.params.addrPolicy = .reject → 0x1000 ≤ s.i.toNat + x.val → Aborts (.ldMemVx x) s .addressViolation) ∧
    (s.params.glyphWritePolicy = .fault →
      (∃ k ≤ x.val, ∃ c < 0x50, resolve s.params.addrPolicy (effectiveAddr s k) = .ok c) →
      Aborts (.ldMemVx x) s .glyphWriteViolation)

/-- FX65: V0 to VX from I, I + 1, ..., VF as an ordinary register, I and memory kept; AddressViolation when I + x is outside memory
under reject, with no register changed (spec/43_memory_index.md R236). -/
def Obligations.BulkLoadReadsRegistersInOrder : Prop :=
  ∀ (s : State) (x : Reg),
    (encode (.ldVxMem x)).toNat = 0xF065 + x.val * 0x100 ∧
    (Readable s (x.val + 1) → ∃ t, exec (.ldVxMem x) s = .next t ∧
      (∀ (r : Reg) (c : Nat), r ≤ x → resolve s.params.addrPolicy (effectiveAddr s r.val) = .ok c → t.reg r = s.byteAt c) ∧
      t.pc = s.pc + 2 ∧ UnchangedBut (.pc :: regsTouched x) s t) ∧
    (s.params.addrPolicy = .reject → 0x1000 ≤ s.i.toNat + x.val → Aborts (.ldVxMem x) s .addressViolation)

/-! ## Display -/

/-- 00E0: every pixel 0, FB_CHANGED set, VF unaffected (spec/44_display.md R261). -/
def Obligations.ClearScreenClearsEveryPixel : Prop :=
  (encode .cls).toNat = 0x00E0 ∧ ∀ s : State, ∃ t, exec .cls s = .next t ∧
    (∀ px < 64, ∀ py < 32, t.fb.pixel px py = false) ∧ t.fbChanged = true ∧ t.pc = s.pc + 2 ∧
    UnchangedBut [.fb, .fbChanged, .pc] s t

/-- DXYN: every pixel is XORed with the sprite bit that falls on it, wrapping in both axes; VF = 1 iff a set pixel was turned off, else
0; FB_CHANGED set; AddressViolation when a row lies outside memory under reject, with no effect (spec/44_display.md R262). -/
def Obligations.DrawXorsTheWrappedSprite : Prop :=
  ∀ (s : State) (x y : Reg) (n : Fin 16),
    (encode (.drw x y n)).toNat = 0xD000 + x.val * 0x100 + y.val * 0x10 + n.val ∧
    (Readable s n.val → ∃ t, exec (.drw x y n) s = .next t ∧
      (∀ px < 64, ∀ py < 32, t.fb.pixel px py =
        (s.fb.pixel px py ^^ spriteOn (s.reg x).toNat (s.reg y).toNat (spriteRows s n.val) px py)) ∧
      (t.reg VF = 1 ∨ t.reg VF = 0) ∧
      (t.reg VF = 1 ↔ Collides s.fb (s.reg x).toNat (s.reg y).toNat (spriteRows s n.val)) ∧
      t.fbChanged = true ∧ t.pc = s.pc + 2 ∧ UnchangedBut [.fb, .fbChanged, .v VF, .pc] s t) ∧
    (s.params.addrPolicy = .reject → 1 ≤ n.val → 0x1000 ≤ s.i.toNat + n.val - 1 → Aborts (.drw x y n) s .addressViolation)

/-- Two identical draws in a row restore the framebuffer, and the second reports a collision iff the first turned a pixel on; X and Y
other than 0xF, so that the flag of the first draw is no coordinate of the second (spec/44_display.md R262; for the flag log entry 12, DEDUCED). -/
def Obligations.TwoIdenticalDrawsRestoreTheFramebuffer : Prop :=
  ∀ (s : State) (x y : Reg) (n : Fin 16), x ≠ VF → y ≠ VF → Readable s n.val →
    ∃ t u, exec (.drw x y n) s = .next t ∧ exec (.drw x y n) t = .next u ∧ u.fb = s.fb ∧
      (u.reg VF = 1 ↔ ∃ px < 64, ∃ py < 32, s.fb.pixel px py = false ∧
        spriteOn (s.reg x).toNat (s.reg y).toNat (spriteRows s n.val) px py = true)

/-! ## Input and timers -/

/-- EX9E and EXA1: skip when the key whose code is in V[x] is down, or up; KeyRangeViolation when V[x] exceeds 0x0F; K is not changed
(spec/45_input.md R280 to R282). -/
def Obligations.KeySkipsTestTheKeyInVx : Prop :=
  ∀ (s : State) (x : Reg),
    (encode (.skp x)).toNat = 0xE09E + x.val * 0x100 ∧ (encode (.sknp x)).toNat = 0xE0A1 + x.val * 0x100 ∧
    (∀ code : Fin 16, (s.reg x).toNat = code.val →
      (∃ t, exec (.skp x) s = .next t ∧ t.pc = (if s.key code then s.pc + 4 else s.pc + 2) ∧ UnchangedBut [.pc] s t) ∧
      (∃ t, exec (.sknp x) s = .next t ∧ t.pc = (if s.key code then s.pc + 2 else s.pc + 4) ∧ UnchangedBut [.pc] s t)) ∧
    (0x0F < (s.reg x).toNat → Aborts (.skp x) s .keyRangeViolation ∧ Aborts (.sknp x) s .keyRangeViolation)

/-- FX0A: MODE becomes AwaitingKey(x) and nothing else changes, PC and a key already down included; the cycle that runs it returns
AwaitingKey (spec/45_input.md R283). -/
def Obligations.KeyWaitSuspendsTheEngine : Prop :=
  ∀ (s : State) (x : Reg),
    (encode (.ldVxK x)).toNat = 0xF00A + x.val * 0x100 ∧
    (∃ t, exec (.ldVxK x) s = .next t ∧ t.mode = .awaitingKey x ∧ UnchangedBut [.mode] s t) ∧
    (s.mode = .running → fetch s = .ok (encode (.ldVxK x)) →
      ∃ t, hostOp .cycle s = .next (t, .cycle .awaitingKey) ∧ t.mode = .awaitingKey x ∧ UnchangedBut [.mode, .dt, .st] s t)

/-- FX07, FX15, FX18: V[x] is DT as it stands before the cycle's tick; DT or ST is V[x]; no flag (spec/46_timers.md R300 to R302). -/
def Obligations.TimerMoves : Prop :=
  ∀ (s : State) (x : Reg),
    ((encode (.ldVxDt x)).toNat = 0xF007 + x.val * 0x100 ∧ (encode (.ldDtVx x)).toNat = 0xF015 + x.val * 0x100 ∧
      (encode (.ldStVx x)).toNat = 0xF018 + x.val * 0x100) ∧
    (∃ t, exec (.ldVxDt x) s = .next t ∧ t.reg x = s.dt ∧ t.pc = s.pc + 2 ∧ UnchangedBut [.v x, .pc] s t) ∧
    (∃ t, exec (.ldDtVx x) s = .next t ∧ t.dt = s.reg x ∧ t.pc = s.pc + 2 ∧ UnchangedBut [.dt, .pc] s t) ∧
    (∃ t, exec (.ldStVx x) s = .next t ∧ t.st = s.reg x ∧ t.pc = s.pc + 2 ∧ UnchangedBut [.st, .pc] s t)

/-- A timer set in a cycle has been decremented once by the end of it under per_cycle, and stands as set under decoupled
(spec/70_reset_and_hazards.md R364, 40_engine.md R127). -/
def Obligations.TimerSetIsTickedInTheSameCycle : Prop :=
  ∀ (s : State) (x : Reg), s.mode = .running →
    (fetch s = .ok (encode (.ldDtVx x)) → ∃ t, step s = .next t ∧
      (s.params.timerCoupling = .perCycle → t.dt.toNat = (s.reg x).toNat - 1) ∧
      (s.params.timerCoupling = .decoupled → t.dt = s.reg x)) ∧
    (fetch s = .ok (encode (.ldStVx x)) → ∃ t, step s = .next t ∧
      (s.params.timerCoupling = .perCycle → t.st.toNat = (s.reg x).toNat - 1) ∧
      (s.params.timerCoupling = .decoupled → t.st = s.reg x))
end

