-- ==== Sys2Proof/Laws/Decode.lean ====
section
/-! SUPPORT. The laws of the encoding: the fields of each format, what a row of the decode table asks of a word, and the bytes of a
word. -/

namespace Sys2Proof

/-! ### The number a format gives, and its fields -/

theorem formatFA_toNat {op : Nat} (h : op < 16) (nnn : Addr) : (formatFA op nnn).toNat = op * 4096 + nnn.toNat := by
  have := nnn.isLt
  simp only [formatFA, BitVec.toNat_ofNat]
  omega

theorem formatFI_toNat {op : Nat} (h : op < 16) (x : Reg) (nn : Byte) :
    (formatFI op x nn).toNat = op * 4096 + x.val * 256 + nn.toNat := by
  have := nn.isLt
  have := x.isLt
  simp only [formatFI, BitVec.toNat_ofNat]
  omega

theorem formatFR_toNat {op : Nat} (h : op < 16) (x y : Reg) (n : Fin 16) :
    (formatFR op x y n).toNat = op * 4096 + x.val * 256 + y.val * 16 + n.val := by
  have := x.isLt
  have := y.isLt
  have := n.isLt
  simp only [formatFR, BitVec.toNat_ofNat]
  omega

theorem fieldOp_val (w : Word) : (fieldOp w).val = w.toNat / 4096 := by
  have := w.isLt
  simp only [fieldOp, nibbleAt]
  omega

theorem fieldX_val (w : Word) : (fieldX w).val = w.toNat / 256 % 16 := rfl
theorem fieldY_val (w : Word) : (fieldY w).val = w.toNat / 16 % 16 := rfl
theorem fieldN_val (w : Word) : (fieldN w).val = w.toNat % 16 := by simp [fieldN, nibbleAt]
theorem fieldNN_toNat (w : Word) : (fieldNN w).toNat = w.toNat % 256 := by simp [fieldNN]
theorem fieldNNN_toNat (w : Word) : (fieldNNN w).toNat = w.toNat % 4096 := by simp [fieldNNN]

section fields

variable {op : Nat} (h : op < 16)
include h

theorem fieldOp_formatFA (nnn : Addr) : (fieldOp (formatFA op nnn)).val = op := by
  have := nnn.isLt
  rw [fieldOp_val, formatFA_toNat h]
  omega

theorem fieldNNN_formatFA (nnn : Addr) : fieldNNN (formatFA op nnn) = nnn := by
  have := nnn.isLt
  apply BitVec.eq_of_toNat_eq
  rw [fieldNNN_toNat, formatFA_toNat h]
  omega

theorem fieldOp_formatFI (x : Reg) (nn : Byte) : (fieldOp (formatFI op x nn)).val = op := by
  have := nn.isLt
  have := x.isLt
  rw [fieldOp_val, formatFI_toNat h]
  omega

theorem fieldX_formatFI (x : Reg) (nn : Byte) : fieldX (formatFI op x nn) = x := by
  have := nn.isLt
  have := x.isLt
  apply Fin.ext
  rw [fieldX_val, formatFI_toNat h]
  omega

theorem fieldNN_formatFI (x : Reg) (nn : Byte) : fieldNN (formatFI op x nn) = nn := by
  have := nn.isLt
  apply BitVec.eq_of_toNat_eq
  rw [fieldNN_toNat, formatFI_toNat h]
  omega

theorem fieldOp_formatFR (x y : Reg) (n : Fin 16) : (fieldOp (formatFR op x y n)).val = op := by
  have := x.isLt
  have := y.isLt
  have := n.isLt
  rw [fieldOp_val, formatFR_toNat h]
  omega

theorem fieldX_formatFR (x y : Reg) (n : Fin 16) : fieldX (formatFR op x y n) = x := by
  have := x.isLt
  have := y.isLt
  have := n.isLt
  apply Fin.ext
  rw [fieldX_val, formatFR_toNat h]
  omega

theorem fieldY_formatFR (x y : Reg) (n : Fin 16) : fieldY (formatFR op x y n) = y := by
  have := y.isLt
  have := n.isLt
  apply Fin.ext
  rw [fieldY_val, formatFR_toNat h]
  omega

theorem fieldN_formatFR (x y : Reg) (n : Fin 16) : fieldN (formatFR op x y n) = n := by
  have := n.isLt
  apply Fin.ext
  rw [fieldN_val, formatFR_toNat h]
  omega

end fields

/-! ### What a row asks of a word -/

theorem and_nibbles (w : Word) (a b : Nat) (hm : (BitVec.ofNat 16 (a * 4096 + b)).toNat = a * 4096 + b) (hb : b < 4096) :
    (w &&& BitVec.ofNat 16 (a * 4096 + b)).toNat = (w.toNat / 4096 &&& a) * 4096 + (w.toNat % 4096 &&& b) := by
  have hd := Nat.shiftRight_and_distrib (a := w.toNat) (b := a * 4096 + b) (i := 12)
  have hr := Nat.and_mod_two_pow (a := w.toNat) (b := a * 4096 + b) (n := 12)
  simp only [Nat.shiftRight_eq_div_pow] at hd
  rw [show (a * 4096 + b) / 2 ^ 12 = a by omega] at hd
  rw [show (a * 4096 + b) % 2 ^ 12 = b by omega] at hr
  rw [BitVec.toNat_and, hm, ← Nat.div_add_mod (w.toNat &&& (a * 4096 + b)) (2 ^ 12), hd, hr]
  norm_num [Nat.mul_comm]

theorem and_15 (n : Nat) : n &&& 15 = n % 16 := Nat.and_two_pow_sub_one_eq_mod n 4

theorem and_255 (n : Nat) : n &&& 255 = n % 256 := Nat.and_two_pow_sub_one_eq_mod n 8

theorem accepts_iff (r : Row) (w : Word) : r.accepts w = true ↔ (w &&& r.mask).toNat = r.pattern.toNat := by
  simp [Row.accepts, BitVec.toNat_eq]

/-- Mask F000: the row fixes op. -/
theorem mask_F000 (w : Word) : (w &&& 0xF000#16).toNat = w.toNat / 4096 * 4096 := by
  have := w.isLt
  rw [show 0xF000#16 = BitVec.ofNat 16 (15 * 4096 + 0) from rfl, and_nibbles w 15 0 rfl (by omega), and_15]
  simp
  omega

/-- Mask F00F: the row fixes op and N. -/
theorem mask_F00F (w : Word) : (w &&& 0xF00F#16).toNat = w.toNat / 4096 * 4096 + w.toNat % 16 := by
  have := w.isLt
  rw [show 0xF00F#16 = BitVec.ofNat 16 (15 * 4096 + 15) from rfl, and_nibbles w 15 15 rfl (by omega), and_15, and_15]
  omega

/-- Mask F0FF: the row fixes op and NN. -/
theorem mask_F0FF (w : Word) : (w &&& 0xF0FF#16).toNat = w.toNat / 4096 * 4096 + w.toNat % 256 := by
  have := w.isLt
  rw [show 0xF0FF#16 = BitVec.ofNat 16 (15 * 4096 + 255) from rfl, and_nibbles w 15 255 rfl (by omega), and_15, and_255]
  omega

/-- Mask FFFF: the row fixes the whole word. -/
theorem mask_FFFF (w : Word) : (w &&& 0xFFFF#16).toNat = w.toNat := by
  rw [show (0xFFFF#16 : Word) = BitVec.allOnes 16 from rfl, BitVec.and_allOnes]

/-! ### Bytes of a word -/

theorem wordOfBytes_toNat (hi lo : Byte) : (wordOfBytes hi lo).toNat = hi.toNat * 256 + lo.toNat := by
  have := hi.isLt
  have := lo.isLt
  simp only [wordOfBytes, BitVec.toNat_ofNat]
  omega

@[simp] theorem wordOfBytes_bytes (w : Word) : wordOfBytes (highByte w) (lowByte w) = w := by
  have := w.isLt
  apply BitVec.eq_of_toNat_eq
  simp only [wordOfBytes_toNat, highByte, lowByte, BitVec.toNat_ofNat]
  omega

theorem decodeTableWord_eq (nbits w : Nat) :
    decodeTableWord nbits w =
      match decodeWord (tableWord nbits w) with
      | .ok i => some i
      | .error _ => none := by
  simp only [decodeTableWord, decodeBytes, wordOfBytes_bytes]
  cases decodeWord (tableWord nbits w) <;> rfl

end Sys2Proof
end

