-- ==== Sys2Proof/Laws/State.lean ====
section
/-! SUPPORT. One lemma per field per update, so that no proof unfolds a record update; then the three reads (a register, a key, a byte
of memory) through every update that leaves them alone. -/

namespace Sys2Proof.Machine.State

variable (s : State)

/-! ### setReg -/

@[simp] theorem setReg_v (x : Reg) (b : Byte) : (s.setReg x b).v = s.v.set x.val b := rfl
@[simp] theorem setReg_i (x : Reg) (b : Byte) : (s.setReg x b).i = s.i := rfl
@[simp] theorem setReg_pc (x : Reg) (b : Byte) : (s.setReg x b).pc = s.pc := rfl
@[simp] theorem setReg_stack (x : Reg) (b : Byte) : (s.setReg x b).stack = s.stack := rfl
@[simp] theorem setReg_sp (x : Reg) (b : Byte) : (s.setReg x b).sp = s.sp := rfl
@[simp] theorem setReg_dt (x : Reg) (b : Byte) : (s.setReg x b).dt = s.dt := rfl
@[simp] theorem setReg_st (x : Reg) (b : Byte) : (s.setReg x b).st = s.st := rfl
@[simp] theorem setReg_keys (x : Reg) (b : Byte) : (s.setReg x b).keys = s.keys := rfl
@[simp] theorem setReg_fb (x : Reg) (b : Byte) : (s.setReg x b).fb = s.fb := rfl
@[simp] theorem setReg_fbChanged (x : Reg) (b : Byte) : (s.setReg x b).fbChanged = s.fbChanged := rfl
@[simp] theorem setReg_mode (x : Reg) (b : Byte) : (s.setReg x b).mode = s.mode := rfl
@[simp] theorem setReg_err (x : Reg) (b : Byte) : (s.setReg x b).err = s.err := rfl
@[simp] theorem setReg_mem (x : Reg) (b : Byte) : (s.setReg x b).mem = s.mem := rfl
@[simp] theorem setReg_params (x : Reg) (b : Byte) : (s.setReg x b).params = s.params := rfl
@[simp] theorem setReg_draws (x : Reg) (b : Byte) : (s.setReg x b).draws = s.draws := rfl
@[simp] theorem setReg_key (x : Reg) (b : Byte) (k' : Fin 16) : (s.setReg x b).key k' = s.key k' := rfl
@[simp] theorem setReg_byteAt (x : Reg) (b : Byte) (n : Nat) : (s.setReg x b).byteAt n = s.byteAt n := rfl

/-! ### setFlag -/

@[simp] theorem setFlag_i (c : Bool) : (s.setFlag c).i = s.i := rfl
@[simp] theorem setFlag_pc (c : Bool) : (s.setFlag c).pc = s.pc := rfl
@[simp] theorem setFlag_stack (c : Bool) : (s.setFlag c).stack = s.stack := rfl
@[simp] theorem setFlag_sp (c : Bool) : (s.setFlag c).sp = s.sp := rfl
@[simp] theorem setFlag_dt (c : Bool) : (s.setFlag c).dt = s.dt := rfl
@[simp] theorem setFlag_st (c : Bool) : (s.setFlag c).st = s.st := rfl
@[simp] theorem setFlag_keys (c : Bool) : (s.setFlag c).keys = s.keys := rfl
@[simp] theorem setFlag_fb (c : Bool) : (s.setFlag c).fb = s.fb := rfl
@[simp] theorem setFlag_fbChanged (c : Bool) : (s.setFlag c).fbChanged = s.fbChanged := rfl
@[simp] theorem setFlag_mode (c : Bool) : (s.setFlag c).mode = s.mode := rfl
@[simp] theorem setFlag_err (c : Bool) : (s.setFlag c).err = s.err := rfl
@[simp] theorem setFlag_mem (c : Bool) : (s.setFlag c).mem = s.mem := rfl
@[simp] theorem setFlag_params (c : Bool) : (s.setFlag c).params = s.params := rfl
@[simp] theorem setFlag_draws (c : Bool) : (s.setFlag c).draws = s.draws := rfl
@[simp] theorem setFlag_key (c : Bool) (k' : Fin 16) : (s.setFlag c).key k' = s.key k' := rfl
@[simp] theorem setFlag_byteAt (c : Bool) (n : Nat) : (s.setFlag c).byteAt n = s.byteAt n := rfl

/-! ### setResult -/

@[simp] theorem setResult_i (x : Reg) (b : Byte) (c : Bool) : (s.setResult x b c).i = s.i := rfl
@[simp] theorem setResult_pc (x : Reg) (b : Byte) (c : Bool) : (s.setResult x b c).pc = s.pc := rfl
@[simp] theorem setResult_stack (x : Reg) (b : Byte) (c : Bool) : (s.setResult x b c).stack = s.stack := rfl
@[simp] theorem setResult_sp (x : Reg) (b : Byte) (c : Bool) : (s.setResult x b c).sp = s.sp := rfl
@[simp] theorem setResult_dt (x : Reg) (b : Byte) (c : Bool) : (s.setResult x b c).dt = s.dt := rfl
@[simp] theorem setResult_st (x : Reg) (b : Byte) (c : Bool) : (s.setResult x b c).st = s.st := rfl
@[simp] theorem setResult_keys (x : Reg) (b : Byte) (c : Bool) : (s.setResult x b c).keys = s.keys := rfl
@[simp] theorem setResult_fb (x : Reg) (b : Byte) (c : Bool) : (s.setResult x b c).fb = s.fb := rfl
@[simp] theorem setResult_fbChanged (x : Reg) (b : Byte) (c : Bool) : (s.setResult x b c).fbChanged = s.fbChanged := rfl
@[simp] theorem setResult_mode (x : Reg) (b : Byte) (c : Bool) : (s.setResult x b c).mode = s.mode := rfl
@[simp] theorem setResult_err (x : Reg) (b : Byte) (c : Bool) : (s.setResult x b c).err = s.err := rfl
@[simp] theorem setResult_mem (x : Reg) (b : Byte) (c : Bool) : (s.setResult x b c).mem = s.mem := rfl
@[simp] theorem setResult_params (x : Reg) (b : Byte) (c : Bool) : (s.setResult x b c).params = s.params := rfl
@[simp] theorem setResult_draws (x : Reg) (b : Byte) (c : Bool) : (s.setResult x b c).draws = s.draws := rfl
@[simp] theorem setResult_key (x : Reg) (b : Byte) (c : Bool) (k' : Fin 16) : (s.setResult x b c).key k' = s.key k' := rfl
@[simp] theorem setResult_byteAt (x : Reg) (b : Byte) (c : Bool) (n : Nat) : (s.setResult x b c).byteAt n = s.byteAt n := rfl

/-! ### setI -/

@[simp] theorem setI_v (a : Word) : (s.setI a).v = s.v := rfl
@[simp] theorem setI_i (a : Word) : (s.setI a).i = a := rfl
@[simp] theorem setI_pc (a : Word) : (s.setI a).pc = s.pc := rfl
@[simp] theorem setI_stack (a : Word) : (s.setI a).stack = s.stack := rfl
@[simp] theorem setI_sp (a : Word) : (s.setI a).sp = s.sp := rfl
@[simp] theorem setI_dt (a : Word) : (s.setI a).dt = s.dt := rfl
@[simp] theorem setI_st (a : Word) : (s.setI a).st = s.st := rfl
@[simp] theorem setI_keys (a : Word) : (s.setI a).keys = s.keys := rfl
@[simp] theorem setI_fb (a : Word) : (s.setI a).fb = s.fb := rfl
@[simp] theorem setI_fbChanged (a : Word) : (s.setI a).fbChanged = s.fbChanged := rfl
@[simp] theorem setI_mode (a : Word) : (s.setI a).mode = s.mode := rfl
@[simp] theorem setI_err (a : Word) : (s.setI a).err = s.err := rfl
@[simp] theorem setI_mem (a : Word) : (s.setI a).mem = s.mem := rfl
@[simp] theorem setI_params (a : Word) : (s.setI a).params = s.params := rfl
@[simp] theorem setI_draws (a : Word) : (s.setI a).draws = s.draws := rfl
@[simp] theorem setI_reg (a : Word) (r : Reg) : (s.setI a).reg r = s.reg r := rfl
@[simp] theorem setI_key (a : Word) (k' : Fin 16) : (s.setI a).key k' = s.key k' := rfl
@[simp] theorem setI_byteAt (a : Word) (n : Nat) : (s.setI a).byteAt n = s.byteAt n := rfl

/-! ### jump -/

@[simp] theorem jump_v (a : Word) : (s.jump a).v = s.v := rfl
@[simp] theorem jump_i (a : Word) : (s.jump a).i = s.i := rfl
@[simp] theorem jump_pc (a : Word) : (s.jump a).pc = a := rfl
@[simp] theorem jump_stack (a : Word) : (s.jump a).stack = s.stack := rfl
@[simp] theorem jump_sp (a : Word) : (s.jump a).sp = s.sp := rfl
@[simp] theorem jump_dt (a : Word) : (s.jump a).dt = s.dt := rfl
@[simp] theorem jump_st (a : Word) : (s.jump a).st = s.st := rfl
@[simp] theorem jump_keys (a : Word) : (s.jump a).keys = s.keys := rfl
@[simp] theorem jump_fb (a : Word) : (s.jump a).fb = s.fb := rfl
@[simp] theorem jump_fbChanged (a : Word) : (s.jump a).fbChanged = s.fbChanged := rfl
@[simp] theorem jump_mode (a : Word) : (s.jump a).mode = s.mode := rfl
@[simp] theorem jump_err (a : Word) : (s.jump a).err = s.err := rfl
@[simp] theorem jump_mem (a : Word) : (s.jump a).mem = s.mem := rfl
@[simp] theorem jump_params (a : Word) : (s.jump a).params = s.params := rfl
@[simp] theorem jump_draws (a : Word) : (s.jump a).draws = s.draws := rfl
@[simp] theorem jump_reg (a : Word) (r : Reg) : (s.jump a).reg r = s.reg r := rfl
@[simp] theorem jump_key (a : Word) (k' : Fin 16) : (s.jump a).key k' = s.key k' := rfl
@[simp] theorem jump_byteAt (a : Word) (n : Nat) : (s.jump a).byteAt n = s.byteAt n := rfl

/-! ### next -/

@[simp] theorem next_v : (s.next).v = s.v := rfl
@[simp] theorem next_i : (s.next).i = s.i := rfl
@[simp] theorem next_pc : (s.next).pc = s.pc + 2 := rfl
@[simp] theorem next_stack : (s.next).stack = s.stack := rfl
@[simp] theorem next_sp : (s.next).sp = s.sp := rfl
@[simp] theorem next_dt : (s.next).dt = s.dt := rfl
@[simp] theorem next_st : (s.next).st = s.st := rfl
@[simp] theorem next_keys : (s.next).keys = s.keys := rfl
@[simp] theorem next_fb : (s.next).fb = s.fb := rfl
@[simp] theorem next_fbChanged : (s.next).fbChanged = s.fbChanged := rfl
@[simp] theorem next_mode : (s.next).mode = s.mode := rfl
@[simp] theorem next_err : (s.next).err = s.err := rfl
@[simp] theorem next_mem : (s.next).mem = s.mem := rfl
@[simp] theorem next_params : (s.next).params = s.params := rfl
@[simp] theorem next_draws : (s.next).draws = s.draws := rfl
@[simp] theorem next_reg (r : Reg) : (s.next).reg r = s.reg r := rfl
@[simp] theorem next_key (k' : Fin 16) : (s.next).key k' = s.key k' := rfl
@[simp] theorem next_byteAt (n : Nat) : (s.next).byteAt n = s.byteAt n := rfl

/-! ### skip -/

@[simp] theorem skip_v : (s.skip).v = s.v := rfl
@[simp] theorem skip_i : (s.skip).i = s.i := rfl
@[simp] theorem skip_pc : (s.skip).pc = s.pc + 4 := rfl
@[simp] theorem skip_stack : (s.skip).stack = s.stack := rfl
@[simp] theorem skip_sp : (s.skip).sp = s.sp := rfl
@[simp] theorem skip_dt : (s.skip).dt = s.dt := rfl
@[simp] theorem skip_st : (s.skip).st = s.st := rfl
@[simp] theorem skip_keys : (s.skip).keys = s.keys := rfl
@[simp] theorem skip_fb : (s.skip).fb = s.fb := rfl
@[simp] theorem skip_fbChanged : (s.skip).fbChanged = s.fbChanged := rfl
@[simp] theorem skip_mode : (s.skip).mode = s.mode := rfl
@[simp] theorem skip_err : (s.skip).err = s.err := rfl
@[simp] theorem skip_mem : (s.skip).mem = s.mem := rfl
@[simp] theorem skip_params : (s.skip).params = s.params := rfl
@[simp] theorem skip_draws : (s.skip).draws = s.draws := rfl
@[simp] theorem skip_reg (r : Reg) : (s.skip).reg r = s.reg r := rfl
@[simp] theorem skip_key (k' : Fin 16) : (s.skip).key k' = s.key k' := rfl
@[simp] theorem skip_byteAt (n : Nat) : (s.skip).byteAt n = s.byteAt n := rfl

/-! ### skipIf -/

@[simp] theorem skipIf_v (c : Bool) : (s.skipIf c).v = s.v := by cases c <;> rfl
@[simp] theorem skipIf_i (c : Bool) : (s.skipIf c).i = s.i := by cases c <;> rfl
@[simp] theorem skipIf_pc (c : Bool) : (s.skipIf c).pc = if c then s.pc + 4 else s.pc + 2 := by cases c <;> rfl
@[simp] theorem skipIf_stack (c : Bool) : (s.skipIf c).stack = s.stack := by cases c <;> rfl
@[simp] theorem skipIf_sp (c : Bool) : (s.skipIf c).sp = s.sp := by cases c <;> rfl
@[simp] theorem skipIf_dt (c : Bool) : (s.skipIf c).dt = s.dt := by cases c <;> rfl
@[simp] theorem skipIf_st (c : Bool) : (s.skipIf c).st = s.st := by cases c <;> rfl
@[simp] theorem skipIf_keys (c : Bool) : (s.skipIf c).keys = s.keys := by cases c <;> rfl
@[simp] theorem skipIf_fb (c : Bool) : (s.skipIf c).fb = s.fb := by cases c <;> rfl
@[simp] theorem skipIf_fbChanged (c : Bool) : (s.skipIf c).fbChanged = s.fbChanged := by cases c <;> rfl
@[simp] theorem skipIf_mode (c : Bool) : (s.skipIf c).mode = s.mode := by cases c <;> rfl
@[simp] theorem skipIf_err (c : Bool) : (s.skipIf c).err = s.err := by cases c <;> rfl
@[simp] theorem skipIf_mem (c : Bool) : (s.skipIf c).mem = s.mem := by cases c <;> rfl
@[simp] theorem skipIf_params (c : Bool) : (s.skipIf c).params = s.params := by cases c <;> rfl
@[simp] theorem skipIf_draws (c : Bool) : (s.skipIf c).draws = s.draws := by cases c <;> rfl
@[simp] theorem skipIf_reg (c : Bool) (r : Reg) : (s.skipIf c).reg r = s.reg r := by simp only [State.reg, skipIf_v]
@[simp] theorem skipIf_key (c : Bool) (k' : Fin 16) : (s.skipIf c).key k' = s.key k' := by simp only [State.key, skipIf_keys]
@[simp] theorem skipIf_byteAt (c : Bool) (n : Nat) : (s.skipIf c).byteAt n = s.byteAt n := by simp only [State.byteAt, skipIf_params, skipIf_mem]

/-! ### setDt -/

@[simp] theorem setDt_v (b : Byte) : (s.setDt b).v = s.v := rfl
@[simp] theorem setDt_i (b : Byte) : (s.setDt b).i = s.i := rfl
@[simp] theorem setDt_pc (b : Byte) : (s.setDt b).pc = s.pc := rfl
@[simp] theorem setDt_stack (b : Byte) : (s.setDt b).stack = s.stack := rfl
@[simp] theorem setDt_sp (b : Byte) : (s.setDt b).sp = s.sp := rfl
@[simp] theorem setDt_dt (b : Byte) : (s.setDt b).dt = b := rfl
@[simp] theorem setDt_st (b : Byte) : (s.setDt b).st = s.st := rfl
@[simp] theorem setDt_keys (b : Byte) : (s.setDt b).keys = s.keys := rfl
@[simp] theorem setDt_fb (b : Byte) : (s.setDt b).fb = s.fb := rfl
@[simp] theorem setDt_fbChanged (b : Byte) : (s.setDt b).fbChanged = s.fbChanged := rfl
@[simp] theorem setDt_mode (b : Byte) : (s.setDt b).mode = s.mode := rfl
@[simp] theorem setDt_err (b : Byte) : (s.setDt b).err = s.err := rfl
@[simp] theorem setDt_mem (b : Byte) : (s.setDt b).mem = s.mem := rfl
@[simp] theorem setDt_params (b : Byte) : (s.setDt b).params = s.params := rfl
@[simp] theorem setDt_draws (b : Byte) : (s.setDt b).draws = s.draws := rfl
@[simp] theorem setDt_reg (b : Byte) (r : Reg) : (s.setDt b).reg r = s.reg r := rfl
@[simp] theorem setDt_key (b : Byte) (k' : Fin 16) : (s.setDt b).key k' = s.key k' := rfl
@[simp] theorem setDt_byteAt (b : Byte) (n : Nat) : (s.setDt b).byteAt n = s.byteAt n := rfl

/-! ### setSt -/

@[simp] theorem setSt_v (b : Byte) : (s.setSt b).v = s.v := rfl
@[simp] theorem setSt_i (b : Byte) : (s.setSt b).i = s.i := rfl
@[simp] theorem setSt_pc (b : Byte) : (s.setSt b).pc = s.pc := rfl
@[simp] theorem setSt_stack (b : Byte) : (s.setSt b).stack = s.stack := rfl
@[simp] theorem setSt_sp (b : Byte) : (s.setSt b).sp = s.sp := rfl
@[simp] theorem setSt_dt (b : Byte) : (s.setSt b).dt = s.dt := rfl
@[simp] theorem setSt_st (b : Byte) : (s.setSt b).st = b := rfl
@[simp] theorem setSt_keys (b : Byte) : (s.setSt b).keys = s.keys := rfl
@[simp] theorem setSt_fb (b : Byte) : (s.setSt b).fb = s.fb := rfl
@[simp] theorem setSt_fbChanged (b : Byte) : (s.setSt b).fbChanged = s.fbChanged := rfl
@[simp] theorem setSt_mode (b : Byte) : (s.setSt b).mode = s.mode := rfl
@[simp] theorem setSt_err (b : Byte) : (s.setSt b).err = s.err := rfl
@[simp] theorem setSt_mem (b : Byte) : (s.setSt b).mem = s.mem := rfl
@[simp] theorem setSt_params (b : Byte) : (s.setSt b).params = s.params := rfl
@[simp] theorem setSt_draws (b : Byte) : (s.setSt b).draws = s.draws := rfl
@[simp] theorem setSt_reg (b : Byte) (r : Reg) : (s.setSt b).reg r = s.reg r := rfl
@[simp] theorem setSt_key (b : Byte) (k' : Fin 16) : (s.setSt b).key k' = s.key k' := rfl
@[simp] theorem setSt_byteAt (b : Byte) (n : Nat) : (s.setSt b).byteAt n = s.byteAt n := rfl

/-! ### tick -/

@[simp] theorem tick_v : (s.tick).v = s.v := rfl
@[simp] theorem tick_i : (s.tick).i = s.i := rfl
@[simp] theorem tick_pc : (s.tick).pc = s.pc := rfl
@[simp] theorem tick_stack : (s.tick).stack = s.stack := rfl
@[simp] theorem tick_sp : (s.tick).sp = s.sp := rfl
@[simp] theorem tick_dt : (s.tick).dt = State.countDown s.dt := rfl
@[simp] theorem tick_st : (s.tick).st = State.countDown s.st := rfl
@[simp] theorem tick_keys : (s.tick).keys = s.keys := rfl
@[simp] theorem tick_fb : (s.tick).fb = s.fb := rfl
@[simp] theorem tick_fbChanged : (s.tick).fbChanged = s.fbChanged := rfl
@[simp] theorem tick_mode : (s.tick).mode = s.mode := rfl
@[simp] theorem tick_err : (s.tick).err = s.err := rfl
@[simp] theorem tick_mem : (s.tick).mem = s.mem := rfl
@[simp] theorem tick_params : (s.tick).params = s.params := rfl
@[simp] theorem tick_draws : (s.tick).draws = s.draws := rfl
@[simp] theorem tick_reg (r : Reg) : (s.tick).reg r = s.reg r := rfl
@[simp] theorem tick_key (k' : Fin 16) : (s.tick).key k' = s.key k' := rfl
@[simp] theorem tick_byteAt (n : Nat) : (s.tick).byteAt n = s.byteAt n := rfl

/-! ### present -/

@[simp] theorem present_v (g : FrameBuffer) : (s.present g).v = s.v := rfl
@[simp] theorem present_i (g : FrameBuffer) : (s.present g).i = s.i := rfl
@[simp] theorem present_pc (g : FrameBuffer) : (s.present g).pc = s.pc := rfl
@[simp] theorem present_stack (g : FrameBuffer) : (s.present g).stack = s.stack := rfl
@[simp] theorem present_sp (g : FrameBuffer) : (s.present g).sp = s.sp := rfl
@[simp] theorem present_dt (g : FrameBuffer) : (s.present g).dt = s.dt := rfl
@[simp] theorem present_st (g : FrameBuffer) : (s.present g).st = s.st := rfl
@[simp] theorem present_keys (g : FrameBuffer) : (s.present g).keys = s.keys := rfl
@[simp] theorem present_fb (g : FrameBuffer) : (s.present g).fb = g := rfl
@[simp] theorem present_fbChanged (g : FrameBuffer) : (s.present g).fbChanged = true := rfl
@[simp] theorem present_mode (g : FrameBuffer) : (s.present g).mode = s.mode := rfl
@[simp] theorem present_err (g : FrameBuffer) : (s.present g).err = s.err := rfl
@[simp] theorem present_mem (g : FrameBuffer) : (s.present g).mem = s.mem := rfl
@[simp] theorem present_params (g : FrameBuffer) : (s.present g).params = s.params := rfl
@[simp] theorem present_draws (g : FrameBuffer) : (s.present g).draws = s.draws := rfl
@[simp] theorem present_reg (g : FrameBuffer) (r : Reg) : (s.present g).reg r = s.reg r := rfl
@[simp] theorem present_key (g : FrameBuffer) (k' : Fin 16) : (s.present g).key k' = s.key k' := rfl
@[simp] theorem present_byteAt (g : FrameBuffer) (n : Nat) : (s.present g).byteAt n = s.byteAt n := rfl

/-! ### setMode -/

@[simp] theorem setMode_v (m : Mode) : (s.setMode m).v = s.v := rfl
@[simp] theorem setMode_i (m : Mode) : (s.setMode m).i = s.i := rfl
@[simp] theorem setMode_pc (m : Mode) : (s.setMode m).pc = s.pc := rfl
@[simp] theorem setMode_stack (m : Mode) : (s.setMode m).stack = s.stack := rfl
@[simp] theorem setMode_sp (m : Mode) : (s.setMode m).sp = s.sp := rfl
@[simp] theorem setMode_dt (m : Mode) : (s.setMode m).dt = s.dt := rfl
@[simp] theorem setMode_st (m : Mode) : (s.setMode m).st = s.st := rfl
@[simp] theorem setMode_keys (m : Mode) : (s.setMode m).keys = s.keys := rfl
@[simp] theorem setMode_fb (m : Mode) : (s.setMode m).fb = s.fb := rfl
@[simp] theorem setMode_fbChanged (m : Mode) : (s.setMode m).fbChanged = s.fbChanged := rfl
@[simp] theorem setMode_mode (m : Mode) : (s.setMode m).mode = m := rfl
@[simp] theorem setMode_err (m : Mode) : (s.setMode m).err = s.err := rfl
@[simp] theorem setMode_mem (m : Mode) : (s.setMode m).mem = s.mem := rfl
@[simp] theorem setMode_params (m : Mode) : (s.setMode m).params = s.params := rfl
@[simp] theorem setMode_draws (m : Mode) : (s.setMode m).draws = s.draws := rfl
@[simp] theorem setMode_reg (m : Mode) (r : Reg) : (s.setMode m).reg r = s.reg r := rfl
@[simp] theorem setMode_key (m : Mode) (k' : Fin 16) : (s.setMode m).key k' = s.key k' := rfl
@[simp] theorem setMode_byteAt (m : Mode) (n : Nat) : (s.setMode m).byteAt n = s.byteAt n := rfl

/-! ### setKeyFlag -/

@[simp] theorem setKeyFlag_v (k : Fin 16) (d : Bool) : (s.setKeyFlag k d).v = s.v := rfl
@[simp] theorem setKeyFlag_i (k : Fin 16) (d : Bool) : (s.setKeyFlag k d).i = s.i := rfl
@[simp] theorem setKeyFlag_pc (k : Fin 16) (d : Bool) : (s.setKeyFlag k d).pc = s.pc := rfl
@[simp] theorem setKeyFlag_stack (k : Fin 16) (d : Bool) : (s.setKeyFlag k d).stack = s.stack := rfl
@[simp] theorem setKeyFlag_sp (k : Fin 16) (d : Bool) : (s.setKeyFlag k d).sp = s.sp := rfl
@[simp] theorem setKeyFlag_dt (k : Fin 16) (d : Bool) : (s.setKeyFlag k d).dt = s.dt := rfl
@[simp] theorem setKeyFlag_st (k : Fin 16) (d : Bool) : (s.setKeyFlag k d).st = s.st := rfl
@[simp] theorem setKeyFlag_keys (k : Fin 16) (d : Bool) : (s.setKeyFlag k d).keys = s.keys.set k.val d := rfl
@[simp] theorem setKeyFlag_fb (k : Fin 16) (d : Bool) : (s.setKeyFlag k d).fb = s.fb := rfl
@[simp] theorem setKeyFlag_fbChanged (k : Fin 16) (d : Bool) : (s.setKeyFlag k d).fbChanged = s.fbChanged := rfl
@[simp] theorem setKeyFlag_mode (k : Fin 16) (d : Bool) : (s.setKeyFlag k d).mode = s.mode := rfl
@[simp] theorem setKeyFlag_err (k : Fin 16) (d : Bool) : (s.setKeyFlag k d).err = s.err := rfl
@[simp] theorem setKeyFlag_mem (k : Fin 16) (d : Bool) : (s.setKeyFlag k d).mem = s.mem := rfl
@[simp] theorem setKeyFlag_params (k : Fin 16) (d : Bool) : (s.setKeyFlag k d).params = s.params := rfl
@[simp] theorem setKeyFlag_draws (k : Fin 16) (d : Bool) : (s.setKeyFlag k d).draws = s.draws := rfl
@[simp] theorem setKeyFlag_reg (k : Fin 16) (d : Bool) (r : Reg) : (s.setKeyFlag k d).reg r = s.reg r := rfl
@[simp] theorem setKeyFlag_byteAt (k : Fin 16) (d : Bool) (n : Nat) : (s.setKeyFlag k d).byteAt n = s.byteAt n := rfl

/-! ### countDraw -/

@[simp] theorem countDraw_v : (s.countDraw).v = s.v := rfl
@[simp] theorem countDraw_i : (s.countDraw).i = s.i := rfl
@[simp] theorem countDraw_pc : (s.countDraw).pc = s.pc := rfl
@[simp] theorem countDraw_stack : (s.countDraw).stack = s.stack := rfl
@[simp] theorem countDraw_sp : (s.countDraw).sp = s.sp := rfl
@[simp] theorem countDraw_dt : (s.countDraw).dt = s.dt := rfl
@[simp] theorem countDraw_st : (s.countDraw).st = s.st := rfl
@[simp] theorem countDraw_keys : (s.countDraw).keys = s.keys := rfl
@[simp] theorem countDraw_fb : (s.countDraw).fb = s.fb := rfl
@[simp] theorem countDraw_fbChanged : (s.countDraw).fbChanged = s.fbChanged := rfl
@[simp] theorem countDraw_mode : (s.countDraw).mode = s.mode := rfl
@[simp] theorem countDraw_err : (s.countDraw).err = s.err := rfl
@[simp] theorem countDraw_mem : (s.countDraw).mem = s.mem := rfl
@[simp] theorem countDraw_params : (s.countDraw).params = s.params := rfl
@[simp] theorem countDraw_draws : (s.countDraw).draws = s.draws + 1 := rfl
@[simp] theorem countDraw_reg (r : Reg) : (s.countDraw).reg r = s.reg r := rfl
@[simp] theorem countDraw_key (k' : Fin 16) : (s.countDraw).key k' = s.key k' := rfl
@[simp] theorem countDraw_byteAt (n : Nat) : (s.countDraw).byteAt n = s.byteAt n := rfl

/-! ### setByte -/

@[simp] theorem setByte_v (a : Nat) (b : Byte) : (s.setByte a b).v = s.v := rfl
@[simp] theorem setByte_i (a : Nat) (b : Byte) : (s.setByte a b).i = s.i := rfl
@[simp] theorem setByte_pc (a : Nat) (b : Byte) : (s.setByte a b).pc = s.pc := rfl
@[simp] theorem setByte_stack (a : Nat) (b : Byte) : (s.setByte a b).stack = s.stack := rfl
@[simp] theorem setByte_sp (a : Nat) (b : Byte) : (s.setByte a b).sp = s.sp := rfl
@[simp] theorem setByte_dt (a : Nat) (b : Byte) : (s.setByte a b).dt = s.dt := rfl
@[simp] theorem setByte_st (a : Nat) (b : Byte) : (s.setByte a b).st = s.st := rfl
@[simp] theorem setByte_keys (a : Nat) (b : Byte) : (s.setByte a b).keys = s.keys := rfl
@[simp] theorem setByte_fb (a : Nat) (b : Byte) : (s.setByte a b).fb = s.fb := rfl
@[simp] theorem setByte_fbChanged (a : Nat) (b : Byte) : (s.setByte a b).fbChanged = s.fbChanged := rfl
@[simp] theorem setByte_mode (a : Nat) (b : Byte) : (s.setByte a b).mode = s.mode := rfl
@[simp] theorem setByte_err (a : Nat) (b : Byte) : (s.setByte a b).err = s.err := rfl
@[simp] theorem setByte_mem (a : Nat) (b : Byte) : (s.setByte a b).mem = Memory.put (resetByte s.params.glyphTable a) s.mem a b := rfl
@[simp] theorem setByte_params (a : Nat) (b : Byte) : (s.setByte a b).params = s.params := rfl
@[simp] theorem setByte_draws (a : Nat) (b : Byte) : (s.setByte a b).draws = s.draws := rfl
@[simp] theorem setByte_reg (a : Nat) (b : Byte) (r : Reg) : (s.setByte a b).reg r = s.reg r := rfl
@[simp] theorem setByte_key (a : Nat) (b : Byte) (k' : Fin 16) : (s.setByte a b).key k' = s.key k' := rfl

/-! ### abort -/

@[simp] theorem abort_v (k : ErrorKind) (w : Option Word) : (s.abort k w).v = s.v := rfl
@[simp] theorem abort_i (k : ErrorKind) (w : Option Word) : (s.abort k w).i = s.i := rfl
@[simp] theorem abort_pc (k : ErrorKind) (w : Option Word) : (s.abort k w).pc = s.pc := rfl
@[simp] theorem abort_stack (k : ErrorKind) (w : Option Word) : (s.abort k w).stack = s.stack := rfl
@[simp] theorem abort_sp (k : ErrorKind) (w : Option Word) : (s.abort k w).sp = s.sp := rfl
@[simp] theorem abort_dt (k : ErrorKind) (w : Option Word) : (s.abort k w).dt = s.dt := rfl
@[simp] theorem abort_st (k : ErrorKind) (w : Option Word) : (s.abort k w).st = s.st := rfl
@[simp] theorem abort_keys (k : ErrorKind) (w : Option Word) : (s.abort k w).keys = s.keys := rfl
@[simp] theorem abort_fb (k : ErrorKind) (w : Option Word) : (s.abort k w).fb = s.fb := rfl
@[simp] theorem abort_fbChanged (k : ErrorKind) (w : Option Word) : (s.abort k w).fbChanged = s.fbChanged := rfl
@[simp] theorem abort_mode (k : ErrorKind) (w : Option Word) : (s.abort k w).mode = .halted := rfl
@[simp] theorem abort_err (k : ErrorKind) (w : Option Word) : (s.abort k w).err = some ⟨k, s.pc, w⟩ := rfl
@[simp] theorem abort_mem (k : ErrorKind) (w : Option Word) : (s.abort k w).mem = s.mem := rfl
@[simp] theorem abort_params (k : ErrorKind) (w : Option Word) : (s.abort k w).params = s.params := rfl
@[simp] theorem abort_draws (k : ErrorKind) (w : Option Word) : (s.abort k w).draws = s.draws := rfl
@[simp] theorem abort_reg (k : ErrorKind) (w : Option Word) (r : Reg) : (s.abort k w).reg r = s.reg r := rfl
@[simp] theorem abort_key (k : ErrorKind) (w : Option Word) (k' : Fin 16) : (s.abort k w).key k' = s.key k' := rfl
@[simp] theorem abort_byteAt (k : ErrorKind) (w : Option Word) (n : Nat) : (s.abort k w).byteAt n = s.byteAt n := rfl

/-! ### cycleTick -/

@[simp] theorem cycleTick_v : (s.cycleTick).v = s.v := by unfold State.cycleTick; split <;> simp_all
@[simp] theorem cycleTick_i : (s.cycleTick).i = s.i := by unfold State.cycleTick; split <;> simp_all
@[simp] theorem cycleTick_pc : (s.cycleTick).pc = s.pc := by unfold State.cycleTick; split <;> simp_all
@[simp] theorem cycleTick_stack : (s.cycleTick).stack = s.stack := by unfold State.cycleTick; split <;> simp_all
@[simp] theorem cycleTick_sp : (s.cycleTick).sp = s.sp := by unfold State.cycleTick; split <;> simp_all
@[simp] theorem cycleTick_dt : (s.cycleTick).dt = if s.params.timerCoupling = .perCycle then State.countDown s.dt else s.dt := by unfold State.cycleTick; split <;> simp_all
@[simp] theorem cycleTick_st : (s.cycleTick).st = if s.params.timerCoupling = .perCycle then State.countDown s.st else s.st := by unfold State.cycleTick; split <;> simp_all
@[simp] theorem cycleTick_keys : (s.cycleTick).keys = s.keys := by unfold State.cycleTick; split <;> simp_all
@[simp] theorem cycleTick_fb : (s.cycleTick).fb = s.fb := by unfold State.cycleTick; split <;> simp_all
@[simp] theorem cycleTick_fbChanged : (s.cycleTick).fbChanged = s.fbChanged := by unfold State.cycleTick; split <;> simp_all
@[simp] theorem cycleTick_mode : (s.cycleTick).mode = s.mode := by unfold State.cycleTick; split <;> simp_all
@[simp] theorem cycleTick_err : (s.cycleTick).err = s.err := by unfold State.cycleTick; split <;> simp_all
@[simp] theorem cycleTick_mem : (s.cycleTick).mem = s.mem := by unfold State.cycleTick; split <;> simp_all
@[simp] theorem cycleTick_params : (s.cycleTick).params = s.params := by unfold State.cycleTick; split <;> simp_all
@[simp] theorem cycleTick_draws : (s.cycleTick).draws = s.draws := by unfold State.cycleTick; split <;> simp_all
@[simp] theorem cycleTick_reg (r : Reg) : (s.cycleTick).reg r = s.reg r := by simp only [State.reg, cycleTick_v]
@[simp] theorem cycleTick_key (k' : Fin 16) : (s.cycleTick).key k' = s.key k' := by simp only [State.key, cycleTick_keys]
@[simp] theorem cycleTick_byteAt (n : Nat) : (s.cycleTick).byteAt n = s.byteAt n := by simp only [State.byteAt, cycleTick_params, cycleTick_mem]

/-! ### Registers and keys after a write of their own -/

theorem setReg_reg (x y : Reg) (b : Byte) : (s.setReg x b).reg y = if y = x then b else s.reg y := by
  simp only [State.reg, State.setReg, Vector.getElem_set, Fin.ext_iff]
  split <;> split <;> simp_all

@[simp] theorem setReg_reg_self (x : Reg) (b : Byte) : (s.setReg x b).reg x = b := by simp [setReg_reg]

theorem setReg_reg_other {x y : Reg} (b : Byte) (h : y ≠ x) : (s.setReg x b).reg y = s.reg y := by simp [setReg_reg, h]

theorem setFlag_reg (c : Bool) (y : Reg) : (s.setFlag c).reg y = if y = VF then flagByte c else s.reg y := setReg_reg ..

/-- The flag wins over the result when X = 0xF (spec/41_arithmetic.md R160). -/
theorem setResult_reg (x y : Reg) (b : Byte) (c : Bool) :
    (s.setResult x b c).reg y = if y = VF then flagByte c else if y = x then b else s.reg y := by
  simp only [State.setResult, setFlag_reg, setReg_reg]

theorem setKeyFlag_key (k j : Fin 16) (d : Bool) : (s.setKeyFlag k d).key j = if j = k then d else s.key j := by
  simp only [State.key, State.setKeyFlag, Vector.getElem_set, Fin.ext_iff]
  split <;> split <;> simp_all

end Sys2Proof.Machine.State
end

