-- ==== Sys2Proof/Laws/Display.lean ====
section
/-! SUPPORT. The laws of the framebuffer: a pixel after a toggle, wrapping, and what drawing one column can do. -/

namespace Sys2Proof.Machine

namespace FrameBuffer

variable (fb : FrameBuffer)

@[simp] theorem pixel_clear (x y : Nat) : FrameBuffer.clear.pixel x y = false := by simp [pixel, clear]

/-- Coordinates wrap modulo 64 and modulo 32 (spec/44_display.md R260). -/
theorem pixel_mod (x y : Nat) : fb.pixel (x % Config.fbWidth) (y % Config.fbHeight) = fb.pixel x y := by
  simp [pixel]

/-- Toggling one pixel negates it and leaves every other pixel alone. -/
theorem pixel_flip (x y px py : Nat) :
    (fb.flip x y).pixel px py =
      if px % Config.fbWidth = x % Config.fbWidth ∧ py % Config.fbHeight = y % Config.fbHeight
      then !fb.pixel px py else fb.pixel px py := by
  unfold flip pixel
  simp only [Vector.getElem_set]
  by_cases hy : y % Config.fbHeight = py % Config.fbHeight
  · by_cases hx : x % Config.fbWidth = px % Config.fbWidth
    · simp [hx, hy]
    · simp [hx, hy, Ne.symm hx]
  · simp [hy, Ne.symm hy]

/-- A framebuffer is its pixels. -/
theorem ext_pixel {fb fb' : FrameBuffer}
    (h : ∀ x y, x < Config.fbWidth → y < Config.fbHeight → fb.pixel x y = fb'.pixel x y) : fb = fb' := by
  apply Vector.ext
  intro y hy
  apply Vector.ext
  intro x hx
  have := h x y hx hy
  simpa [pixel, Nat.mod_eq_of_lt hx, Nat.mod_eq_of_lt hy] using this

end FrameBuffer

namespace Canvas

variable (c : Canvas)

/-- All one column can do: nothing where the bit is clear; else toggle its pixel, colliding when it was set. -/
theorem drawBit_cases (x y : Nat) (row : Byte) (col : Nat) :
    (row.getMsbD col = false ∧ drawBit x y row c col = c) ∨
      (row.getMsbD col = true ∧ drawBit x y row c col = ⟨c.fb.flip (x + col) y, c.hit || c.fb.pixel (x + col) y⟩) := by
  unfold drawBit
  cases row.getMsbD col <;> simp

theorem drawBit_pixel (x y : Nat) (row : Byte) (col px py : Nat) :
    (drawBit x y row c col).fb.pixel px py =
      (c.fb.pixel px py ^^ (row.getMsbD col && decide (px % Config.fbWidth = (x + col) % Config.fbWidth) &&
        decide (py % Config.fbHeight = y % Config.fbHeight))) := by
  rcases drawBit_cases c x y row col with ⟨hb, h⟩ | ⟨hb, h⟩
  · simp [h, hb]
  · rw [h, FrameBuffer.pixel_flip]
    by_cases h1 : px % Config.fbWidth = (x + col) % Config.fbWidth <;>
      by_cases h2 : py % Config.fbHeight = y % Config.fbHeight <;> simp [h1, h2, hb]

theorem drawBit_hit (x y : Nat) (row : Byte) (col : Nat) :
    (drawBit x y row c col).hit = (c.hit || (row.getMsbD col && c.fb.pixel (x + col) y)) := by
  rcases drawBit_cases c x y row col with ⟨hb, h⟩ | ⟨hb, h⟩ <;> simp [h, hb]

theorem drawRows_nil (x y : Nat) : c.drawRows x y [] = c := rfl

theorem drawRows_cons (x y : Nat) (row : Byte) (rest : List Byte) :
    c.drawRows x y (row :: rest) = (c.drawRow x y row).drawRows x (y + 1) rest := rfl

/-- A framebuffer column is column `col` of the sprite exactly when its distance from the sprite's start, modulo 64, is `col`. -/
theorem column_eq_iff (px x col : Nat) (hc : col < 8) :
    px % Config.fbWidth = (x + col) % Config.fbWidth ↔ (px + 64 - x % 64) % 64 = col := by
  show px % 64 = (x + col) % 64 ↔ _
  omega

/-- A sprite row toggles exactly the pixels of its row whose column carries a set bit. -/
theorem drawRow_pixel (x y : Nat) (row : Byte) (px py : Nat) :
    (c.drawRow x y row).fb.pixel px py =
      (c.fb.pixel px py ^^ (row.getMsbD ((px + 64 - x % 64) % 64) && decide (py % 32 = y % 32))) := by
  simp only [drawRow, List.foldl, drawBit_pixel]
  simp only [column_eq_iff px x 0 (by decide), column_eq_iff px x 1 (by decide), column_eq_iff px x 2 (by decide),
    column_eq_iff px x 3 (by decide), column_eq_iff px x 4 (by decide), column_eq_iff px x 5 (by decide),
    column_eq_iff px x 6 (by decide), column_eq_iff px x 7 (by decide)]
  generalize (px + 64 - x % 64) % 64 = d
  by_cases h : d < 8
  · interval_cases d <;> simp
  · rw [BitVec.getMsbD_of_ge row d (by omega)]
    simp [show d ≠ 0 by omega, show d ≠ 1 by omega, show d ≠ 2 by omega, show d ≠ 3 by omega, show d ≠ 4 by omega,
      show d ≠ 5 by omega, show d ≠ 6 by omega, show d ≠ 7 by omega]

/-- Toggling distinct columns collides exactly when one of them carries a set bit over a set pixel. -/
theorem foldl_drawBit_hit (x y : Nat) (row : Byte) : ∀ (cols : List Nat) (c : Canvas), cols.Nodup → (∀ a ∈ cols, a < 8) →
    ((cols.foldl (drawBit x y row) c).hit = true ↔
      c.hit = true ∨ ∃ dx ∈ cols, row.getMsbD dx = true ∧ c.fb.pixel (x + dx) y = true)
  | [], c, _, _ => by simp
  | a :: rest, c, hn, hb => by
    obtain ⟨hna, hn⟩ := List.nodup_cons.mp hn
    have ha := hb a (by simp)
    have hb' : ∀ b ∈ rest, b < 8 := fun b h => hb b (List.mem_cons_of_mem _ h)
    have hp : ∀ dx ∈ rest, (drawBit x y row c a).fb.pixel (x + dx) y = c.fb.pixel (x + dx) y := by
      intro dx hdx
      have h8 := hb' dx hdx
      have hne : dx ≠ a := by rintro rfl; exact hna hdx
      have h : ¬ (x + dx) % Config.fbWidth = (x + a) % Config.fbWidth := by
        show ¬ (x + dx) % 64 = (x + a) % 64
        omega
      simp [drawBit_pixel, h]
    rw [List.foldl_cons, foldl_drawBit_hit x y row rest _ hn hb', drawBit_hit]
    simp only [Bool.or_eq_true, Bool.and_eq_true, List.mem_cons, exists_eq_or_imp]
    rw [or_assoc]
    refine or_congr_right (or_congr_right ⟨?_, ?_⟩) <;> rintro ⟨dx, h1, h2, h3⟩ <;> refine ⟨dx, h1, h2, ?_⟩
    · rw [← hp dx h1]; exact h3
    · rw [hp dx h1]; exact h3

/-- A sprite row collides exactly when one of its set bits falls on a set pixel. -/
theorem drawRow_hit (x y : Nat) (row : Byte) :
    (c.drawRow x y row).hit = true ↔ c.hit = true ∨ ∃ dx < 8, row.getMsbD dx = true ∧ c.fb.pixel (x + dx) y = true := by
  rw [drawRow, foldl_drawBit_hit x y row _ c (by decide) (by decide)]
  refine or_congr_right ⟨?_, ?_⟩ <;> rintro ⟨dx, h1, h2⟩
  · exact ⟨dx, (by decide : ∀ a ∈ [0, 1, 2, 3, 4, 5, 6, 7], a < 8) dx h1, h2⟩
  · exact ⟨dx, by interval_cases dx <;> simp, h2⟩

end Canvas

end Sys2Proof.Machine
end

