-- ==== Sys2Proof/Laws/Memory.lean ====
section
/-! SUPPORT. The laws of memory: read after write, every other address left alone, the canonical form kept and unique; then what the
two primitives MemRead and MemWrite and the runs of them can do. -/

namespace Sys2Proof.Machine

namespace Memory

variable {g : Vector Byte Config.glyphSize} {m : Memory}

theorem find_cons_other {u b : Byte} {a n : Nat} {rest : Memory} (h : n ≠ a) :
    find (cons u a b rest) n = find rest n := by
  unfold cons
  split
  · rfl
  · simp [find, Ne.symm h]

/-- A write leaves what is listed for every other address alone. -/
theorem find_put_other {u b : Byte} {a n : Nat} (h : n ≠ a) : ∀ m : Memory, find (put u m a b) n = find m n
  | [] => find_cons_other h
  | (k, c) :: rest => by
    unfold put
    split
    · simp only [find, find_put_other h rest]
    · split
      · next hk => subst hk; rw [find_cons_other h]; simp [find, Ne.symm h]
      · exact find_cons_other h

theorem get_put_other {u b : Byte} {a n : Nat} (h : n ≠ a) : get g (put u m a b) n = get g m n := by
  simp only [get, find_put_other h]

/-- In a memory whose addresses are at least `low`, nothing below `low` is listed. -/
theorem find_below {low n : Nat} : ∀ m : Memory, wfFrom g low m = true → n < low → find m n = none
  | [], _, _ => rfl
  | (k, c) :: rest, h, hn => by
    simp only [wfFrom, Bool.and_eq_true, decide_eq_true_eq] at h
    have : k ≠ n := by omega
    simp only [find, this, if_false]
    exact find_below rest h.2 (by omega)

theorem wfFrom_mono {low low' : Nat} (h : low' ≤ low) : ∀ {m : Memory}, wfFrom g low m = true → wfFrom g low' m = true
  | [], _ => rfl
  | (k, c) :: rest, hm => by
    simp only [wfFrom, Bool.and_eq_true, decide_eq_true_eq] at hm ⊢
    exact ⟨⟨⟨by omega, hm.1.1.2⟩, hm.1.2⟩, hm.2⟩

/-- In a canonical memory a byte is listed only where it differs from the reset contents. -/
theorem find_ne_resetByte {low a : Nat} {b : Byte} : ∀ m : Memory, wfFrom g low m = true → find m a = some b → b ≠ resetByte g a
  | [], _, h => by cases h
  | (k, c) :: rest, hm, h => by
    simp only [wfFrom, Bool.and_eq_true, decide_eq_true_eq] at hm
    simp only [find] at h
    split at h
    · next hk => cases h; subst hk; exact hm.1.2
    · exact find_ne_resetByte rest hm.2 h

theorem get_cons_self {low a : Nat} {b : Byte} {rest : Memory} (hr : wfFrom g low rest = true) (h : a < low) :
    get g (cons (resetByte g a) a b rest) a = b := by
  unfold cons
  split
  · next hb => simp only [get, find_below rest hr h, hb]
  · simp [get, find]

/-- A read after a write to the same address gives the byte written. -/
theorem get_put_same {low a : Nat} {b : Byte} : ∀ m : Memory, wfFrom g low m = true →
    get g (put (resetByte g a) m a b) a = b
  | [], _ => get_cons_self (low := a + 1) rfl (by omega)
  | (k, c) :: rest, h => by
    have h' := h
    simp only [wfFrom, Bool.and_eq_true, decide_eq_true_eq] at h
    unfold put
    split
    · have : k ≠ a := by omega
      have ih := get_put_same rest h.2 (a := a) (b := b)
      simp only [get, find, this, if_false] at ih ⊢
      exact ih
    · split
      · next hk => subst hk; exact get_cons_self h.2 (by omega)
      · refine get_cons_self (low := k) ?_ (by omega)
        simp only [wfFrom, Bool.and_eq_true, decide_eq_true_eq]
        exact ⟨⟨⟨Nat.le_refl _, h.1.1.2⟩, h.1.2⟩, h.2⟩

theorem wfFrom_cons {low a : Nat} {b : Byte} {rest : Memory} (hl : low ≤ a) (ha : a < Config.memSize)
    (hr : wfFrom g (a + 1) rest = true) : wfFrom g low (cons (resetByte g a) a b rest) = true := by
  unfold cons
  split
  · exact wfFrom_mono (by omega) hr
  · next hb =>
    simp only [wfFrom, Bool.and_eq_true, decide_eq_true_eq]
    exact ⟨⟨⟨hl, ha⟩, hb⟩, hr⟩

theorem wfFrom_put {a : Nat} {b : Byte} (ha : a < Config.memSize) : ∀ {low : Nat} (m : Memory), low ≤ a →
    wfFrom g low m = true → wfFrom g low (put (resetByte g a) m a b) = true
  | _, [], hl, _ => wfFrom_cons hl ha rfl
  | low, (k, c) :: rest, hl, h => by
    have h' := h
    simp only [wfFrom, Bool.and_eq_true, decide_eq_true_eq] at h
    unfold put
    split
    · next hk =>
      simp only [wfFrom, Bool.and_eq_true, decide_eq_true_eq]
      exact ⟨h.1, wfFrom_put ha rest (by omega) h.2⟩
    · split
      · next hk => subst hk; exact wfFrom_cons hl ha h.2
      · next h1 h2 =>
        refine wfFrom_cons hl ha ?_
        simp only [wfFrom, Bool.and_eq_true, decide_eq_true_eq]
        exact ⟨⟨⟨by omega, h.1.1.2⟩, h.1.2⟩, h.2⟩

/-- Every write to an address of the memory keeps the canonical form. -/
theorem wf_put {a : Nat} {b : Byte} (ha : a < Config.memSize) (h : wf g m = true) :
    wf g (put (resetByte g a) m a b) = true := wfFrom_put ha m (Nat.zero_le _) h

theorem wf_nil : wf g [] = true := rfl

/-- In a canonical memory the byte an address reads as says what is listed for it. -/
theorem find_eq {low a : Nat} (h : wfFrom g low m = true) :
    find m a = if get g m a = resetByte g a then none else some (get g m a) := by
  unfold get
  cases hf : find m a with
  | none => simp
  | some b => simp [find_ne_resetByte m h hf]

/-- Equal reads make equal lists: the canonical form is unique. -/
theorem ext_find {low : Nat} : ∀ {m m' : Memory}, wfFrom g low m = true → wfFrom g low m' = true →
    (∀ a, find m a = find m' a) → m = m'
  | [], [], _, _, _ => rfl
  | [], (k, c) :: rest, _, _, h => by have := h k; simp [find] at this
  | (k, c) :: rest, [], _, _, h => by have := h k; simp [find] at this
  | (k, c) :: rest, (k', c') :: rest', h, h', hf => by
    simp only [wfFrom, Bool.and_eq_true, decide_eq_true_eq] at h h'
    have hk : k = k' := by
      rcases Nat.lt_trichotomy k k' with hlt | heq | hgt
      · have := hf k
        simp [find, find_below rest' h'.2 (show k < k' + 1 by omega), (show k' ≠ k by omega)] at this
      · exact heq
      · have := hf k'
        simp [find, find_below rest h.2 (show k' < k + 1 by omega), (show k ≠ k' by omega)] at this
    subst hk
    have hc : c = c' := by simpa [find] using hf k
    subst hc
    congr 1
    refine ext_find h.2 h'.2 fun a => ?_
    by_cases ha : a < k + 1
    · rw [find_below rest h.2 ha, find_below rest' h'.2 ha]
    · have := hf a
      simpa [find, (show k ≠ a by omega)] using this

theorem ext_get {m' : Memory} (h : wf g m = true) (h' : wf g m' = true) (hg : ∀ a, get g m a = get g m' a) : m = m' :=
  ext_find h h' fun a => by rw [find_eq h, find_eq h', hg a]

end Memory

/-! ### One byte of the state -/

namespace State

variable (s : State)

theorem setByte_byteAt_other {a n : Nat} (b : Byte) (h : n ≠ a) : (s.setByte a b).byteAt n = s.byteAt n :=
  Memory.get_put_other h

theorem setByte_byteAt_self (a : Nat) (b : Byte) (h : Memory.wf s.params.glyphTable s.mem = true) :
    (s.setByte a b).byteAt a = b := Memory.get_put_same s.mem h

theorem setByte_wf {a : Nat} (b : Byte) (ha : a < Config.memSize) (h : Memory.wf s.params.glyphTable s.mem = true) :
    Memory.wf (s.setByte a b).params.glyphTable (s.setByte a b).mem = true := Memory.wf_put ha h

end State

/-! ### The address check and the two primitives -/

variable {s t : State} {a n : Nat}

theorem resolve_of_lt (p : AddrPolicy) (h : a < Config.memSize) : resolve p a = .ok a := by simp [resolve, h]

/-- All the address check can do: the address itself, or at or above 4096 the error under reject or the wrapped address. -/
theorem resolve_cases {p : AddrPolicy} {r : Except ErrorKind Nat} (h : resolve p a = r) :
    (a < Config.memSize ∧ r = .ok a) ∨ (Config.memSize ≤ a ∧ p = .reject ∧ r = .error .addressViolation) ∨
      (Config.memSize ≤ a ∧ p = .wrap ∧ r = .ok (a % Config.memSize)) := by
  unfold resolve at h
  split at h
  · exact .inl ⟨‹_›, h.symm⟩
  · cases p
    · exact .inr (.inl ⟨by omega, rfl, h.symm⟩)
    · exact .inr (.inr ⟨by omega, rfl, h.symm⟩)

theorem resolve_lt {p : AddrPolicy} {b : Nat} (h : resolve p a = .ok b) : b < Config.memSize := by
  rcases resolve_cases h with ⟨h1, h2⟩ | ⟨_, _, h2⟩ | ⟨_, _, h2⟩ <;> cases h2
  · exact h1
  · exact Nat.mod_lt _ (by decide)

theorem memRead_of_lt (h : a < Config.memSize) : memRead s a = .ok (s.byteAt a) := by
  simp [memRead, resolve_of_lt _ h]

/-- Two addresses less than 4096 apart resolve to different bytes. -/
theorem resolve_injective {p : AddrPolicy} {b c : Nat} (h1 : resolve p a = .ok c) (h2 : resolve p b = .ok c) (h : a < b) :
    a + Config.memSize ≤ b := by
  have e : Config.memSize = 4096 := rfl
  rcases resolve_cases h1 with ⟨h4, h5⟩ | ⟨-, -, h5⟩ | ⟨h4, -, h5⟩ <;>
    rcases resolve_cases h2 with ⟨h6, h7⟩ | ⟨-, -, h7⟩ | ⟨h6, -, h7⟩ <;> simp at h5 h7 <;> rw [e] at * <;> omega

/-- All a store can do: nothing (ignored), or one byte written at the resolved address, outside the glyph table or under write. -/
theorem memWrite_cases {b : Byte} (h : memWrite s a b = .ok t) :
    (t = s ∧ s.params.glyphWritePolicy = .ignore) ∨
      ∃ c, resolve s.params.addrPolicy a = .ok c ∧ (Config.glyphSize ≤ c ∨ s.params.glyphWritePolicy = .write) ∧
        t = s.setByte c b := by
  unfold memWrite at h
  split at h
  · cases h
  · next c hc =>
    split at h
    · split at h
      · cases h
      · next hp => cases h; exact .inl ⟨rfl, hp⟩
      · next hp => cases h; exact .inr ⟨c, hc, .inr hp, rfl⟩
    · cases h; exact .inr ⟨c, hc, .inl (by omega), rfl⟩

theorem memWrite_error {b : Byte} {k : ErrorKind} (h : memWrite s a b = .error k) :
    (k = .addressViolation ∧ resolve s.params.addrPolicy a = .error .addressViolation) ∨
      (k = .glyphWriteViolation ∧ s.params.glyphWritePolicy = .fault) := by
  unfold memWrite at h
  split at h
  · next hr =>
    rcases resolve_cases hr with ⟨_, h2⟩ | ⟨_, _, h2⟩ | ⟨_, _, h2⟩ <;> cases h2
    cases h; exact .inl ⟨rfl, hr⟩
  · split at h
    · split at h <;> cases h
      exact .inr ⟨rfl, ‹_›⟩
    · cases h

theorem memRead_error {k : ErrorKind} (h : memRead s a = .error k) :
    k = .addressViolation ∧ s.params.addrPolicy = .reject ∧ Config.memSize ≤ a := by
  unfold memRead at h
  split at h
  · cases h
  · next hr =>
    rcases resolve_cases hr with ⟨_, h2⟩ | ⟨h1, h3, h2⟩ | ⟨_, _, h2⟩ <;> cases h2
    cases h; exact ⟨rfl, h3, h1⟩

/-! ### Runs of reads and writes -/

theorem readBytes_error {k : ErrorKind} : ∀ {n a : Nat}, readBytes s a n = .error k →
    k = .addressViolation ∧ s.params.addrPolicy = .reject
  | 0, _, h => by cases h
  | n + 1, a, h => by
    unfold readBytes at h
    split at h
    · next hr => cases h; exact ⟨(memRead_error hr).1, (memRead_error hr).2.1⟩
    · split at h
      · next hr => cases h; exact readBytes_error hr
      · cases h

theorem readBytes_of_lt : ∀ {n a : Nat}, a + n ≤ Config.memSize →
    readBytes s a n = .ok ((List.range n).map fun k => s.byteAt (a + k))
  | 0, _, _ => rfl
  | n + 1, a, h => by
    simp only [readBytes, memRead_of_lt (show a < Config.memSize by omega),
      readBytes_of_lt (show (a + 1) + n ≤ Config.memSize by omega), List.range_succ_eq_map, List.map_cons, List.map_map]
    simp [Function.comp_def, Nat.add_assoc, Nat.add_comm 1]

/-- A run of reads whose addresses all pass the address check gives the bytes at those addresses, modulo 4096. -/
theorem readBytes_of_resolve : ∀ {n a : Nat}, (∀ k < n, ∃ c, resolve s.params.addrPolicy (a + k) = .ok c) →
    readBytes s a n = .ok ((List.range n).map fun k => s.byteAt ((a + k) % Config.memSize))
  | 0, _, _ => rfl
  | n + 1, a, h => by
    have hr : memRead s a = .ok (s.byteAt (a % Config.memSize)) := by
      obtain ⟨c, hc⟩ := h 0 (by omega)
      rw [Nat.add_zero] at hc
      rcases resolve_cases hc with ⟨h1, -⟩ | ⟨-, -, h2⟩ | ⟨-, -, h2⟩
      · rw [memRead_of_lt h1, Nat.mod_eq_of_lt h1]
      · cases h2
      · cases h2; simp [memRead, hc]
    have hs : ∀ k < n, ∃ c, resolve s.params.addrPolicy (a + 1 + k) = .ok c := by
      intro k hk
      rw [Nat.add_assoc, Nat.add_comm 1]
      exact h (k + 1) (by omega)
    simp only [readBytes, hr, readBytes_of_resolve hs, List.range_succ_eq_map, List.map_cons, List.map_map]
    simp [Function.comp_def, Nat.add_assoc, Nat.add_comm 1]

theorem readBytes_length : ∀ {n a : Nat} {bs : List Byte}, readBytes s a n = .ok bs → bs.length = n
  | 0, _, _, h => by cases h; rfl
  | n + 1, a, bs, h => by
    unfold readBytes at h
    split at h
    · cases h
    · split at h
      · cases h
      · next hr => cases h; simp [readBytes_length hr]

/-- What a run of stores keeps: any property that every single-byte store at a resolved address keeps. -/
theorem writeBytes_induct (P : State → Prop)
    (hp : ∀ (s : State) (c : Nat) (b : Byte), c < Config.memSize →
      (Config.glyphSize ≤ c ∨ s.params.glyphWritePolicy = .write) → P s → P (s.setByte c b)) :
    ∀ {bs : List Byte} {s t : State} {a : Nat}, writeBytes s a bs = .ok t → P s → P t
  | [], _, _, _, h, hs => by cases h; exact hs
  | b :: rest, s, t, a, h, hs => by
    unfold writeBytes at h
    split at h
    · cases h
    · next u hu =>
      refine writeBytes_induct P hp h ?_
      rcases memWrite_cases hu with ⟨rfl, _⟩ | ⟨c, hc, hg, rfl⟩
      · exact hs
      · exact hp s c b (resolve_lt hc) hg hs

theorem writeBytes_error {k : ErrorKind} : ∀ {bs : List Byte} {s : State} {a : Nat}, writeBytes s a bs = .error k →
    k = .addressViolation ∨ k = .glyphWriteViolation
  | [], _, _, h => by cases h
  | b :: rest, s, a, h => by
    unfold writeBytes at h
    split at h
    · next hr =>
      cases h
      rcases memWrite_error hr with ⟨h1, _⟩ | ⟨h1, _⟩
      · exact .inl h1
      · exact .inr h1
    · exact writeBytes_error h

/-- A run of stores changes nothing but memory. -/
theorem writeBytes_mem_only {bs : List Byte} (h : writeBytes s a bs = .ok t) : ∃ m, t = { s with mem := m } :=
  writeBytes_induct (fun u => ∃ m, u = { s with mem := m })
    (by rintro u c b - - ⟨m, rfl⟩; exact ⟨_, rfl⟩) h ⟨s.mem, rfl⟩

theorem writeBytes_wf {bs : List Byte} (h : writeBytes s a bs = .ok t)
    (hs : Memory.wf s.params.glyphTable s.mem = true) : Memory.wf t.params.glyphTable t.mem = true :=
  writeBytes_induct (fun u => Memory.wf u.params.glyphTable u.mem = true)
    (fun u _ b hc _ hu => State.setByte_wf u b hc hu) h hs

/-- A run of stores leaves alone every byte that none of its addresses resolves to. -/
theorem writeBytes_byteAt_other : ∀ {bs : List Byte} {s t : State} {a n : Nat}, writeBytes s a bs = .ok t →
    (∀ k, k < bs.length → resolve s.params.addrPolicy (a + k) ≠ .ok n) → t.byteAt n = s.byteAt n
  | [], _, _, _, _, h, _ => by cases h; rfl
  | b :: rest, s, t, a, n, h, hn => by
    unfold writeBytes at h
    split at h
    · cases h
    · next u hu =>
      have hu' : u.params = s.params ∧ u.byteAt n = s.byteAt n := by
        rcases memWrite_cases hu with ⟨rfl, _⟩ | ⟨c, hc, _, rfl⟩
        · exact ⟨rfl, rfl⟩
        · refine ⟨rfl, State.setByte_byteAt_other s b ?_⟩
          rintro rfl
          exact hn 0 (by simp) hc
      rw [← hu'.2]
      refine writeBytes_byteAt_other h fun k hk => ?_
      rw [hu'.1, Nat.add_assoc, Nat.add_comm 1]
      exact hn (k + 1) (by simpa using hk)

/-- A run of stores inside ordinary memory succeeds, and stores its bytes in order. -/
theorem writeBytes_ok : ∀ {bs : List Byte} {s : State} {a : Nat}, Config.glyphSize ≤ a → a + bs.length ≤ Config.memSize →
    writeBytes s a bs = .ok (s.setBytes a bs)
  | [], _, _, _, _ => rfl
  | b :: rest, s, a, hg, ha => by
    simp only [List.length_cons] at ha
    simp only [writeBytes, memWrite, resolve_of_lt s.params.addrPolicy (show a < Config.memSize by omega),
      show ¬ a < Config.glyphSize by omega, if_false, State.setBytes]
    exact writeBytes_ok (by omega) (by omega)

/-- Copying bytes changes nothing but memory. -/
theorem setBytes_mem_only : ∀ (bs : List Byte) (s : State) (a : Nat), ∃ m, s.setBytes a bs = { s with mem := m }
  | [], s, _ => ⟨s.mem, rfl⟩
  | b :: rest, s, a => by
    obtain ⟨m, hm⟩ := setBytes_mem_only rest (s.setByte a b) (a + 1)
    exact ⟨m, hm⟩

theorem setBytes_byteAt_other : ∀ (bs : List Byte) (s : State) (a n : Nat), n < a ∨ a + bs.length ≤ n →
    (s.setBytes a bs).byteAt n = s.byteAt n
  | [], _, _, _, _ => rfl
  | b :: rest, s, a, n, h => by
    simp only [List.length_cons] at h
    rw [State.setBytes, setBytes_byteAt_other rest _ _ _ (by omega), State.setByte_byteAt_other _ _ (by omega)]

theorem setBytes_wf : ∀ (bs : List Byte) (s : State) (a : Nat), a + bs.length ≤ Config.memSize →
    Memory.wf s.params.glyphTable s.mem = true →
    Memory.wf (s.setBytes a bs).params.glyphTable (s.setBytes a bs).mem = true
  | [], _, _, _, h => h
  | b :: rest, s, a, ha, h => by
    simp only [List.length_cons] at ha
    exact setBytes_wf rest _ _ (by omega) (State.setByte_wf s b (by omega) h)

theorem setBytes_byteAt : ∀ (bs : List Byte) (s : State) (a : Nat), a + bs.length ≤ Config.memSize →
    Memory.wf s.params.glyphTable s.mem = true → ∀ (j : Nat) (h : j < bs.length), (s.setBytes a bs).byteAt (a + j) = bs[j]
  | [], _, _, _, _, _, h => by simp at h
  | b :: rest, s, a, ha, hw, 0, _ => by
    simp only [List.length_cons] at ha
    rw [State.setBytes, setBytes_byteAt_other rest _ _ _ (by omega)]
    exact State.setByte_byteAt_self s a b hw
  | b :: rest, s, a, ha, hw, j + 1, h => by
    simp only [List.length_cons] at ha h
    have := setBytes_byteAt rest (s.setByte a b) (a + 1) (by omega) (State.setByte_wf s b (by omega) hw) j (by omega)
    simpa [State.setBytes, Nat.add_assoc, Nat.add_comm 1] using this

end Sys2Proof.Machine
end

