-- ==== Sys2Proof/Laws/Ops.lean ====
section
/-! SUPPORT. What the stack, the key operand, the bulk register load, taking an error and the end of an execution can do: one lemma
each, which later proofs cite instead of unfolding the operation. -/

namespace Sys2Proof.Machine

variable {s t : State}

namespace State

theorem push_of_lt {a : Word} (h : s.sp.val < Config.stackDepth) :
    s.push a = .ok { s with stack := s.stack.set s.sp.val a, sp := ⟨s.sp.val + 1, Nat.succ_lt_succ h⟩ } := by
  simp [push, h]

/-- All a push can do: overflow at 16, else write S[SP] and count it. -/
theorem push_cases {a : Word} {r : Except ErrorKind State} (hr : s.push a = r) :
    (s.sp.val = 16 ∧ r = .error .stackOverflow) ∨
      ∃ h : s.sp.val < Config.stackDepth,
        r = .ok { s with stack := s.stack.set s.sp.val a, sp := ⟨s.sp.val + 1, Nat.succ_lt_succ h⟩ } := by
  unfold push at hr
  split at hr
  · exact .inr ⟨‹_›, hr.symm⟩
  · next h => exact .inl ⟨Nat.le_antisymm (Nat.le_of_lt_succ s.sp.isLt) (Nat.le_of_not_lt h), hr.symm⟩

/-- All a pop can do: underflow at 0, else go to S[SP - 1], whose entry is kept. -/
theorem popJump_cases {r : Except ErrorKind State} (hr : s.popJump = r) :
    (s.sp.val = 0 ∧ r = .error .stackUnderflow) ∨
      ∃ (_ : 0 < s.sp.val) (h1 : s.sp.val - 1 < Config.stackDepth) (h2 : s.sp.val - 1 < Config.stackDepth + 1),
        r = .ok { s with pc := s.stack[s.sp.val - 1], sp := ⟨s.sp.val - 1, h2⟩ } := by
  have := s.sp.isLt
  unfold popJump at hr
  split at hr
  · exact .inr ⟨‹_›, by omega, by omega, hr.symm⟩
  · exact .inl ⟨by omega, hr.symm⟩

/-- A bulk register load changes nothing but V. -/
theorem setRegs_v_only : ∀ (bs : List Byte) (s : State) (k : Nat), ∃ v, s.setRegs k bs = { s with v := v }
  | [], s, _ => ⟨s.v, rfl⟩
  | b :: rest, s, k => by
    obtain ⟨v, hv⟩ := setRegs_v_only rest { s with v := s.v.setIfInBounds k b } (k + 1)
    exact ⟨v, hv⟩

/-- A bulk register load writes V[k + j] with the j-th byte and leaves the other registers alone. -/
theorem setRegs_reg : ∀ (bs : List Byte) (s : State) (k : Nat) (r : Reg),
    (s.setRegs k bs).reg r = if k ≤ r.val then bs.getD (r.val - k) (s.reg r) else s.reg r
  | [], s, k, r => by simp [setRegs]
  | b :: rest, s, k, r => by
    rw [setRegs, setRegs_reg rest _ (k + 1) r]
    simp only [State.reg, Vector.getElem_setIfInBounds]
    by_cases h : k = r.val
    · simp [h]
    · by_cases h' : k + 1 ≤ r.val
      · rw [show r.val - k = (r.val - (k + 1)) + 1 by omega]
        simp [h', h, show k ≤ r.val by omega]
      · simp [show ¬ k ≤ r.val by omega, h, h']

end State

/-- All the key operand can do: a code below 16, or KeyRangeViolation (spec/45_input.md R280). -/
theorem keyOf_cases {x : Reg} {r : Except ErrorKind (Fin 16)} (hr : keyOf s x = r) :
    (16 ≤ (s.reg x).toNat ∧ r = .error .keyRangeViolation) ∨
      ∃ h : (s.reg x).toNat < 16, r = .ok ⟨(s.reg x).toNat, h⟩ := by
  unfold keyOf at hr
  split at hr
  · exact .inr ⟨‹_›, hr.symm⟩
  · exact .inl ⟨by omega, hr.symm⟩

/-- The end of an execution always answers a next state: the state the execution left, or the error it raised, taken. -/
theorem finish_cases {i : Instr} {r : Except ErrorKind State} (h : finish i s r = .next t) :
    r = .ok t ∨ ∃ k, r = .error k ∧ t = s.abort k (some (encode i)) := by
  cases r with
  | ok u => cases h; exact .inl rfl
  | error k => cases h; exact .inr ⟨k, rfl, rfl⟩

theorem finish_next (i : Instr) (s : State) (r : Except ErrorKind State) : ∃ t, finish i s r = .next t := by
  cases r with
  | ok u => exact ⟨u, rfl⟩
  | error k => exact ⟨_, rfl⟩

theorem regsUpTo_length (s : State) (x : Reg) : (regsUpTo s x).length = x.val + 1 := by
  simp [regsUpTo]

theorem decimalDigits_length (b : Byte) : (decimalDigits b).length = 3 := rfl

end Sys2Proof.Machine
end

