-- ==== Sys2Proof/Laws/PerInstr.lean ====
section
/-! SUPPORT. Statements about every instruction as syntax, one lemma per constructor. -/

namespace Sys2Proof.Laws.LegalWord

/-- The word the encoder gives is an instruction word: it matches a row of the decode table (spec/30_encoding.md R96). -/
def Statement (i : Instr) : Prop := WellFormed.word (encode i) = true

/-- A word is legal when some row of the table accepts it. -/
theorem of_row {w : Word} (r : Row) (hr : r ∈ decodeTable) (h : (w &&& r.mask).toNat = r.pattern.toNat) :
    WellFormed.word w = true := List.any_eq_true.mpr ⟨r, hr, (accepts_iff r w).mpr h⟩

theorem of_F000 {w : Word} (p : Word) (hr : ⟨p, 0xF000⟩ ∈ decodeTable) (h : w.toNat / 4096 * 4096 = p.toNat) :
    WellFormed.word w = true := of_row _ hr ((mask_F000 w).trans h)

theorem of_F00F {w : Word} (p : Word) (hr : ⟨p, 0xF00F⟩ ∈ decodeTable)
    (h : w.toNat / 4096 * 4096 + w.toNat % 16 = p.toNat) : WellFormed.word w = true := of_row _ hr ((mask_F00F w).trans h)

theorem of_F0FF {w : Word} (p : Word) (hr : ⟨p, 0xF0FF⟩ ∈ decodeTable)
    (h : w.toNat / 4096 * 4096 + w.toNat % 256 = p.toNat) : WellFormed.word w = true := of_row _ hr ((mask_F0FF w).trans h)

theorem legal_FA {op : Nat} (h : op < 16) (hr : ⟨BitVec.ofNat 16 (op * 4096), 0xF000⟩ ∈ decodeTable) (nnn : Addr) :
    WellFormed.word (formatFA op nnn) = true :=
  of_F000 _ hr (by rw [formatFA_toNat h, BitVec.toNat_ofNat]; omega)

theorem legal_FI {op : Nat} (h : op < 16) (hr : ⟨BitVec.ofNat 16 (op * 4096), 0xF000⟩ ∈ decodeTable) (x : Reg) (nn : Byte) :
    WellFormed.word (formatFI op x nn) = true :=
  of_F000 _ hr (by rw [formatFI_toNat h, BitVec.toNat_ofNat]; omega)

theorem legal_FR {op : Nat} (h : op < 16) (n : Fin 16) (hr : ⟨BitVec.ofNat 16 (op * 4096 + n.val), 0xF00F⟩ ∈ decodeTable)
    (x y : Reg) : WellFormed.word (formatFR op x y n) = true :=
  of_F00F _ hr (by rw [formatFR_toNat h, BitVec.toNat_ofNat]; omega)

theorem legal_FS {op : Nat} (h : op < 16) (nn : Byte) (hr : ⟨BitVec.ofNat 16 (op * 4096 + nn.toNat), 0xF0FF⟩ ∈ decodeTable)
    (x : Reg) : WellFormed.word (formatFS op x nn) = true :=
  of_F0FF _ hr (by
    have := nn.isLt
    rw [formatFS, formatFI_toNat h, BitVec.toNat_ofNat]
    omega)

theorem cls : Statement .cls := by unfold Statement; decide
theorem ret : Statement .ret := by unfold Statement; decide
theorem jp (nnn : Addr) : Statement (.jp nnn) := legal_FA (by decide) (by decide) nnn
theorem call (nnn : Addr) : Statement (.call nnn) := legal_FA (by decide) (by decide) nnn
theorem seImm (x : Reg) (nn : Byte) : Statement (.seImm x nn) := legal_FI (by decide) (by decide) x nn
theorem sneImm (x : Reg) (nn : Byte) : Statement (.sneImm x nn) := legal_FI (by decide) (by decide) x nn
theorem seReg (x y : Reg) : Statement (.seReg x y) := legal_FR (by decide) _ (by decide) x y
theorem ldImm (x : Reg) (nn : Byte) : Statement (.ldImm x nn) := legal_FI (by decide) (by decide) x nn
theorem addImm (x : Reg) (nn : Byte) : Statement (.addImm x nn) := legal_FI (by decide) (by decide) x nn
theorem ldReg (x y : Reg) : Statement (.ldReg x y) := legal_FR (by decide) _ (by decide) x y
theorem orReg (x y : Reg) : Statement (.orReg x y) := legal_FR (by decide) _ (by decide) x y
theorem andReg (x y : Reg) : Statement (.andReg x y) := legal_FR (by decide) _ (by decide) x y
theorem xorReg (x y : Reg) : Statement (.xorReg x y) := legal_FR (by decide) _ (by decide) x y
theorem addReg (x y : Reg) : Statement (.addReg x y) := legal_FR (by decide) _ (by decide) x y
theorem subReg (x y : Reg) : Statement (.subReg x y) := legal_FR (by decide) _ (by decide) x y
theorem shr (x y : Reg) : Statement (.shr x y) := legal_FR (by decide) _ (by decide) x y
theorem subnReg (x y : Reg) : Statement (.subnReg x y) := legal_FR (by decide) _ (by decide) x y
theorem shl (x y : Reg) : Statement (.shl x y) := legal_FR (by decide) _ (by decide) x y
theorem sneReg (x y : Reg) : Statement (.sneReg x y) := legal_FR (by decide) _ (by decide) x y
theorem ldI (nnn : Addr) : Statement (.ldI nnn) := legal_FA (by decide) (by decide) nnn
theorem jpV0 (nnn : Addr) : Statement (.jpV0 nnn) := legal_FA (by decide) (by decide) nnn
theorem rnd (x : Reg) (nn : Byte) : Statement (.rnd x nn) := legal_FI (by decide) (by decide) x nn
theorem drw (x y : Reg) (n : Fin 16) : Statement (.drw x y n) :=
  of_F000 0xD000 (by decide) (by
    show (Sys2Proof.formatFR 0xD x y n).toNat / 4096 * 4096 = _
    rw [formatFR_toNat (by decide)]
    have := x.isLt
    have := y.isLt
    have := n.isLt
    rw [show BitVec.toNat (53248 : Word) = 53248 from rfl]
    omega)
theorem skp (x : Reg) : Statement (.skp x) := legal_FS (by decide) _ (by decide) x
theorem sknp (x : Reg) : Statement (.sknp x) := legal_FS (by decide) _ (by decide) x
theorem ldVxDt (x : Reg) : Statement (.ldVxDt x) := legal_FS (by decide) _ (by decide) x
theorem ldVxK (x : Reg) : Statement (.ldVxK x) := legal_FS (by decide) _ (by decide) x
theorem ldDtVx (x : Reg) : Statement (.ldDtVx x) := legal_FS (by decide) _ (by decide) x
theorem ldStVx (x : Reg) : Statement (.ldStVx x) := legal_FS (by decide) _ (by decide) x
theorem addI (x : Reg) : Statement (.addI x) := legal_FS (by decide) _ (by decide) x
theorem ldF (x : Reg) : Statement (.ldF x) := legal_FS (by decide) _ (by decide) x
theorem ldB (x : Reg) : Statement (.ldB x) := legal_FS (by decide) _ (by decide) x
theorem ldMemVx (x : Reg) : Statement (.ldMemVx x) := legal_FS (by decide) _ (by decide) x
theorem ldVxMem (x : Reg) : Statement (.ldVxMem x) := legal_FS (by decide) _ (by decide) x

end Sys2Proof.Laws.LegalWord
end

