-- ==== Sys2Proof/Laws/Step.lean ====
section
/-! SUPPORT. What a fetch, a cycle and a host operation can do, said once: later proofs cite these and unfold none of them. -/

namespace Sys2Proof.Machine

variable {s t : State}

/-- All a fetch can do: the word of the two bytes, or the AddressViolation of the first that cannot be read. -/
theorem fetch_cases {r : Except ErrorKind Word} (h : fetch s = r) :
    (∃ hi lo, memRead s s.pc.toNat = .ok hi ∧ memRead s (s.pc.toNat + 1) = .ok lo ∧ r = .ok (wordOfBytes hi lo)) ∨
      (s.params.addrPolicy = .reject ∧ Config.memSize ≤ s.pc.toNat + 1 ∧ r = .error .addressViolation) := by
  unfold fetch at h
  split at h
  · next hr =>
    obtain ⟨rfl, hp, ha⟩ := memRead_error hr
    exact .inr ⟨hp, by omega, h.symm⟩
  · split at h
    · next hr =>
      obtain ⟨rfl, hp, ha⟩ := memRead_error hr
      exact .inr ⟨hp, ha, h.symm⟩
    · exact .inl ⟨_, _, ‹_›, ‹_›, h.symm⟩

theorem fetch_of_lt (h : s.pc.toNat + 1 < Config.memSize) :
    fetch s = .ok (wordOfBytes (s.byteAt s.pc.toNat) (s.byteAt (s.pc.toNat + 1))) := by
  simp only [fetch, memRead_of_lt h, memRead_of_lt (show s.pc.toNat < Config.memSize by omega)]

/-- Under reject a word was fetched only from a PC at or below 0xFFE. -/
theorem fetch_ok_pc {w : Word} (h : fetch s = .ok w) (hp : s.params.addrPolicy = .reject) :
    s.pc.toNat + 1 < Config.memSize := by
  rcases fetch_cases h with ⟨hi, lo, -, hlo, -⟩ | ⟨-, -, hr⟩
  · unfold memRead at hlo
    split at hlo
    · next hr =>
      rcases resolve_cases hr with ⟨h1, -⟩ | ⟨-, -, h2⟩ | ⟨-, h2, -⟩
      · exact h1
      · cases h2
      · rw [hp] at h2; cases h2
    · cases hlo
  · cases hr

/-- All a step that answers a next state can do (spec/40_engine.md R121 to R129). -/
theorem step_cases (h : step s = .next t) :
    (s.mode = .halted ∧ t = s) ∨
      (∃ x, s.mode = .awaitingKey x ∧ t = waitCycle s) ∨
      (s.mode = .running ∧ ∃ k, fetch s = .error k ∧ t = s.abort k none) ∨
      (s.mode = .running ∧ ∃ w, fetch s = .ok w ∧ (∃ r, decodeWord w = .error r) ∧
        t = s.abort .unsupportedInstruction (some w)) ∨
      (s.mode = .running ∧ ∃ w i u, fetch s = .ok w ∧ decodeWord w = .ok i ∧ exec i s = .next u ∧ t = endCycle u) := by
  unfold step at h
  split at h
  · next hm => cases h; exact .inl ⟨hm, rfl⟩
  · next x hm => cases h; exact .inr (.inl ⟨x, hm, rfl⟩)
  · next hm =>
    right; right
    split at h
    · next k hf => cases h; exact .inl ⟨hm, k, hf, rfl⟩
    · next w hf =>
      right
      split at h
      · next r hd => cases h; exact .inl ⟨hm, w, hf, ⟨r, hd⟩, rfl⟩
      · next i hd =>
        split at h
        · next u hu => cases h; exact .inr ⟨hm, w, i, u, hf, hd, hu, rfl⟩
        · cases h
        · cases h

/-- The end of a cycle: nothing more when it aborted, else the tick. -/
theorem endCycle_cases (u : State) : (u.mode = .halted ∧ endCycle u = u) ∨ (u.mode ≠ .halted ∧ endCycle u = u.cycleTick) := by
  unfold endCycle
  split
  · exact .inl ⟨‹_›, rfl⟩
  · exact .inr ⟨‹_›, rfl⟩

/-- All a host operation that answers can do (spec/40_engine.md R120). -/
theorem hostOp_cases {op : HostOp} {r : HostResult} (h : hostOp op s = .next (t, r)) :
    (op = .reset ∧ t = resetOp s) ∨
      (∃ o bs, op = .load o bs ∧ (t, r) = loadOp o bs s) ∨
      (op = .cycle ∧ step s = .next t ∧ r = .cycle (cycleResult t)) ∨
      (op = .tickTimers ∧ s.params.timerCoupling = .decoupled ∧ t = s.tick) ∨
      (∃ c d, op = .setKey c d ∧ t = setKeyOp c d s) ∨
      (op = .readFramebuffer ∧ (t, r) = readFramebufferOp s) ∨
      (op = .readTimers ∧ t = s ∧ r = .timers s.dt s.st) ∨
      (op = .readState ∧ t = s ∧ r = .state s) := by
  cases op <;> simp only [hostOp] at h
  case reset => cases h; simp
  case load o bs => simp at h; simp [h]
  case cycle => split at h <;> cases h; simp_all
  case tickTimers => split at h <;> cases h; simp_all
  case setKey c d => cases h; exact .inr (.inr (.inr (.inr (.inl ⟨c, d, rfl, rfl⟩))))
  case readFramebuffer => simp at h; simp [h]
  case readTimers => cases h; simp
  case readState => cases h; simp

/-- All a load can do: copy its bytes inside the program region, or refuse and change nothing (spec/20_memory.md R74). -/
theorem loadOp_cases {o : Word} {bs : List Byte} {r : HostResult} (h : (t, r) = loadOp o bs s) :
    (Config.programOrigin ≤ o.toNat ∧ o.toNat + bs.length ≤ Config.memSize ∧ t = s.setBytes o.toNat bs ∧ r = .success) ∨
      (t = s ∧ r = .boundaryViolation) := by
  unfold loadOp at h
  split at h
  · next hl =>
    simp only [WellFormed.load, Bool.and_eq_true, decide_eq_true_eq] at hl
    cases h; exact .inl ⟨hl.1, hl.2, rfl, rfl⟩
  · cases h; exact .inr ⟨rfl, rfl⟩

/-- All a key event can do: set its flag, and end a wait when it is a press (spec/40_engine.md R131). -/
theorem setKeyOp_cases (c : Fin 16) (d : Bool) :
    (∃ x, d = true ∧ s.mode = .awaitingKey x ∧ setKeyOp c d s = completeWait (s.setKeyFlag c true) x c) ∨
      ((d = false ∨ ∀ x, s.mode ≠ .awaitingKey x) ∧ setKeyOp c d s = s.setKeyFlag c d) := by
  cases d with
  | false => exact .inr ⟨.inl rfl, rfl⟩
  | true =>
    cases hm : s.mode with
    | awaitingKey x => exact .inl ⟨x, rfl, rfl, by simp [setKeyOp, hm]⟩
    | running => exact .inr ⟨.inr (by simp), by simp [setKeyOp, hm]⟩
    | halted => exact .inr ⟨.inr (by simp), by simp [setKeyOp, hm]⟩

end Sys2Proof.Machine
end

