-- ==== Sys2Proof/Tests/Slice0.lean ====
section
/-! SUPPORT. The model's own tests and the witnesses of the statements' hypotheses. Expected values come from the bit patterns of
spec/opcode_table.json ("encoding") and from the vectors of spec/95_test_vectors.md, named in each comment. -/

namespace Sys2Proof.Tests

open Sys2Proof.Machine

/-! ## Decoding: one word for every constructor, written out from the "encoding" column of spec/opcode_table.json -/

theorem test_decode_family0 :
    decodeWord 0b0000000011100000 = .ok .cls ∧ decodeWord 0b0000000011101110 = .ok .ret := ⟨rfl, rfl⟩

theorem test_decode_addresses :
    decodeWord 0b0001001000110100 = .ok (.jp 0x234) ∧ decodeWord 0b0010111111111110 = .ok (.call 0xFFE) ∧
      decodeWord 0b1010001011110000 = .ok (.ldI 0x2F0) ∧ decodeWord 0b1011100000000001 = .ok (.jpV0 0x801) := ⟨rfl, rfl, rfl, rfl⟩

theorem test_decode_immediates :
    decodeWord 0b0011001000000111 = .ok (.seImm 2 0x07) ∧ decodeWord 0b0100111010000001 = .ok (.sneImm 14 0x81) ∧
      decodeWord 0b0110101001000010 = .ok (.ldImm 10 0x42) ∧ decodeWord 0b0111001111111111 = .ok (.addImm 3 0xFF) ∧
      decodeWord 0b1100000000001111 = .ok (.rnd 0 0x0F) := ⟨rfl, rfl, rfl, rfl, rfl⟩

theorem test_decode_compares :
    decodeWord 0b0101000100100000 = .ok (.seReg 1 2) ∧ decodeWord 0b1001111000010000 = .ok (.sneReg 14 1) := ⟨rfl, rfl⟩

theorem test_decode_family8 :
    decodeWord 0b1000000100100000 = .ok (.ldReg 1 2) ∧ decodeWord 0b1000000100100001 = .ok (.orReg 1 2) ∧
      decodeWord 0b1000000100100010 = .ok (.andReg 1 2) ∧ decodeWord 0b1000000100100011 = .ok (.xorReg 1 2) ∧
      decodeWord 0b1000000100100100 = .ok (.addReg 1 2) ∧ decodeWord 0b1000000100100101 = .ok (.subReg 1 2) ∧
      decodeWord 0b1000000100100110 = .ok (.shr 1 2) ∧ decodeWord 0b1000000100100111 = .ok (.subnReg 1 2) ∧
      decodeWord 0b1000000100101110 = .ok (.shl 1 2) := ⟨rfl, rfl, rfl, rfl, rfl, rfl, rfl, rfl, rfl⟩

theorem test_decode_draw : decodeWord 0b1101000100101111 = .ok (.drw 1 2 15) := rfl

theorem test_decode_keys :
    decodeWord 0b1110000110011110 = .ok (.skp 1) ∧ decodeWord 0b1110100010100001 = .ok (.sknp 8) := ⟨rfl, rfl⟩

theorem test_decode_familyF :
    decodeWord 0b1111001000000111 = .ok (.ldVxDt 2) ∧ decodeWord 0b1111000100001010 = .ok (.ldVxK 1) ∧
      decodeWord 0b1111001000010101 = .ok (.ldDtVx 2) ∧ decodeWord 0b1111001000011000 = .ok (.ldStVx 2) ∧
      decodeWord 0b1111010100011110 = .ok (.addI 5) ∧ decodeWord 0b1111000000101001 = .ok (.ldF 0) ∧
      decodeWord 0b1111010000110011 = .ok (.ldB 4) ∧ decodeWord 0b1111000101010101 = .ok (.ldMemVx 1) ∧
      decodeWord 0b1111111101100101 = .ok (.ldVxMem 15) := ⟨rfl, rfl, rfl, rfl, rfl, rfl, rfl, rfl, rfl⟩

/-- The unsupported words of the decode vectors (spec/95_test_vectors.md 2.1), each rejected by name. -/
theorem test_decode_unsupported :
    decodeWord 0x0000 = .error (.systemCall 0x0000) ∧ decodeWord 0x00E1 = .error (.systemCall 0x00E1) ∧
      decodeWord 0x0123 = .error (.systemCall 0x0123) ∧ decodeWord 0x5121 = .error (.family5 0x5121) ∧
      decodeWord 0x8128 = .error (.family8 0x8128) ∧ decodeWord 0x812F = .error (.family8 0x812F) ∧
      decodeWord 0x9121 = .error (.family9 0x9121) ∧ decodeWord 0xE19F = .error (.familyE 0xE19F) ∧
      decodeWord 0xF175 = .error (.familyF 0xF175) ∧ decodeWord 0xF185 = .error (.familyF 0xF185) ∧
      decodeWord 0xF130 = .error (.familyF 0xF130) ∧ decodeBytes [0x60] = .error .truncated :=
  ⟨rfl, rfl, rfl, rfl, rfl, rfl, rfl, rfl, rfl, rfl, rfl, rfl⟩

/-- The first byte in memory is the high byte (E1), and the host's numbering gives the same word. -/
theorem test_decode_bytes :
    decodeBytes [0x12, 0x00, 0x60] = .ok (.jp 0x200, [0x60]) ∧ decodeTableWord 16 0x8127 = some (.subnReg 1 2) ∧
      decodeTableWord 16 0x0000 = none := by decide

/-! ## Well-formedness: one ill-formed word for each family that has any, and the load bounds (H2 to H5) -/

theorem test_wf_refuses_system_call : WellFormed.word 0x0000 = false := by decide
theorem test_wf_refuses_family5 : WellFormed.word 0x5121 = false := by decide
theorem test_wf_refuses_family8 : WellFormed.word 0x8128 = false := by decide
theorem test_wf_refuses_family9 : WellFormed.word 0x9121 = false := by decide
theorem test_wf_refuses_familyE : WellFormed.word 0xE19F = false := by decide
theorem test_wf_refuses_familyF : WellFormed.word 0xF175 = false := by decide
theorem test_wf_accepts_words : WellFormed.word 0x00E0 = true ∧ WellFormed.word 0xFF65 = true := by decide
theorem test_wf_refuses_low_load : WellFormed.load 0x1FF [0x00] = false := by decide
theorem test_wf_refuses_high_load : WellFormed.load 0xFFF [0xAB, 0xCD] = false := by decide
theorem test_wf_accepts_loads : WellFormed.load 0xFFF [0xAB] = true ∧ WellFormed.load 0x1000 [] = true := by decide

/-- Memory's canonical form refuses a listed reset value, a wrong order and an address past the end. -/
theorem test_wf_refuses_memory :
    Memory.wf Config.standardFont [(0x300, 0)] = false ∧ Memory.wf Config.standardFont [(0x301, 1), (0x300, 1)] = false ∧
      Memory.wf Config.standardFont [(0x1000, 1)] = false := by decide

/-! ## One step of each instruction (spec/95_test_vectors.md; the vector is named in each comment) -/

/-- The state after reset with some general registers set. -/
def start (regs : List (Reg × Byte)) : State := regs.foldl (fun s p => s.setReg p.1 p.2) State.reset

/-- The state after one step on the word `w`. -/
def ran (s : State) (w : Nat) : Option State :=
  match step (s.withFetchWord 16 w) with
  | .next t => some t
  | .fault _ => none
  | .refused _ => none

/-- V[x], VF and PC. -/
def flagView (x : Reg) (t : State) : Byte × Byte × Word := (t.reg x, t.reg VF, t.pc)

/-- `s` with I set and bytes of memory in place. -/
def withI (s : State) (i : Word) (bytes : List Byte) : State := ({ s with i := i } : State).setBytes i.toNat bytes

-- A1, A2
theorem test_6XNN : (ran State.reset 0x6A42).map (flagView 10) = some (0x42, 0, 0x202) := by decide
theorem test_6XNN_vf : (ran (start [(VF, 1)]) 0x6F00).map (flagView VF) = some (0, 0, 0x202) := by decide
-- A3, A4
theorem test_7XNN : (ran (start [(3, 0xFF)]) 0x7301).map (flagView 3) = some (0, 0, 0x202) := by decide
theorem test_7XNN_vf : (ran (start [(VF, 1)]) 0x7FFF).map (flagView VF) = some (0, 0, 0x202) := by decide
-- A5 to A9
theorem test_8XY0 : (ran (start [(1, 0x12)]) 0x8010).map (flagView 0) = some (0x12, 0, 0x202) := by decide
theorem test_8XY1 : (ran (start [(0, 0x0F), (1, 0xF0), (VF, 0x55)]) 0x8011).map (flagView 0) = some (0xFF, 0x55, 0x202) := by decide
theorem test_8XY2 : (ran (start [(0, 0x3C), (1, 0x0F), (VF, 0x55)]) 0x8012).map (flagView 0) = some (0x0C, 0x55, 0x202) := by decide
theorem test_8XY3 : (ran (start [(0, 0x3C), (1, 0x0F)]) 0x8013).map (flagView 0) = some (0x33, 0, 0x202) := by decide
theorem test_8XY3_same : (ran (start [(0, 0x3C)]) 0x8003).map (flagView 0) = some (0x00, 0, 0x202) := by decide
-- A11, A14
theorem test_8XY4 : (ran (start [(1, 0xF0), (2, 0x10)]) 0x8124).map (flagView 1) = some (0x00, 1, 0x202) := by decide
theorem test_8XY4_vf : (ran (start [(VF, 0xFF), (1, 1)]) 0x8F14).map (flagView VF) = some (1, 1, 0x202) := by decide
-- W2 (A < B), A18
theorem test_8XY5 : (ran (start [(1, 0x03), (2, 0x05)]) 0x8125).map (flagView 1) = some (0xFE, 0, 0x202) := by decide
theorem test_8XY5_vf : (ran (start [(VF, 0x05), (1, 0x03)]) 0x8F15).map (flagView VF) = some (1, 1, 0x202) := by decide
-- A21, A24
theorem test_8XY6 : (ran (start [(1, 0xFF)]) 0x8106).map (flagView 1) = some (0x7F, 1, 0x202) := by decide
theorem test_8XY6_vy : (ran { start [(2, 0x03)] with params := { Config.decided with shiftSource := .vy } } 0x8126).map (flagView 1)
    = some (0x01, 1, 0x202) := by decide
-- A27, A28
theorem test_8XY7 : (ran (start [(1, 0x05), (2, 0x03)]) 0x8127).map (flagView 1) = some (0xFE, 0, 0x202) := by decide
theorem test_8XY7_equal : (ran (start [(1, 0x09), (2, 0x09)]) 0x8127).map (flagView 1) = some (0x00, 1, 0x202) := by decide
-- A30, A32
theorem test_8XYE : (ran (start [(1, 0x7F)]) 0x810E).map (flagView 1) = some (0xFE, 0, 0x202) := by decide
theorem test_8XYE_vy : (ran { start [(2, 0x81)] with params := { Config.decided with shiftSource := .vy } } 0x812E).map (flagView 1)
    = some (0x02, 1, 0x202) := by decide
-- A33; A34: any draw masked by 0 is 0, so the free draw is not looked at
theorem test_CXNN : flagView 0 (rndWith 0xA7 0 0x0F State.reset) = (0x07, 0, 0x202) := by decide
theorem test_CXNN_any_draw (r : Byte) : flagView 0 (rndWith r 0 0x00 (start [(0, 0x5A)])) = (0x00, 0, 0x202) := by
  simp [rndWith, flagView, BitVec.and_zero]; decide
-- B1, B3
theorem test_1NNN : (ran State.reset 0x1FFF).map (fun t => (t.pc, t.mode)) = some (0xFFF, .running) := by decide
-- B5, B6
theorem test_2NNN : (ran { State.reset with sp := 15 } 0x2300).map (fun t => (t.stack[15], t.sp, t.pc)) = some (0x202, 16, 0x300) := by
  decide
theorem test_2NNN_overflow : (ran { State.reset with sp := 16 } 0x2300).map (fun t => (t.err, t.mode, t.sp, t.pc))
    = some (some ⟨.stackOverflow, 0x200, some 0x2300⟩, .halted, 16, 0x200) := by decide
-- B7, B8
theorem test_00EE : (ran { State.reset with pc := 0x300, sp := 1, stack := State.reset.stack.set 0 0x202 } 0x00EE).map
    (fun t => (t.sp, t.pc, t.stack[0])) = some (0, 0x202, 0x202) := by decide
theorem test_00EE_underflow : (ran { State.reset with pc := 0x300 } 0x00EE).map (fun t => (t.err, t.mode, t.pc))
    = some (some ⟨.stackUnderflow, 0x300, some 0x00EE⟩, .halted, 0x300) := by decide
-- B9, B10
theorem test_3XNN : (ran (start [(2, 0x07)]) 0x3207).map State.pc = some 0x204 := by decide
theorem test_3XNN_no : (ran (start [(2, 0x08)]) 0x3207).map State.pc = some 0x202 := by decide
-- B11, B12
theorem test_4XNN : (ran (start [(2, 0x08)]) 0x4207).map State.pc = some 0x204 := by decide
theorem test_4XNN_no : (ran (start [(2, 0x07)]) 0x4207).map State.pc = some 0x202 := by decide
-- B13, B14
theorem test_5XY0 : (ran (start [(0, 0x10), (1, 0x10)]) 0x5010).map State.pc = some 0x204 := by decide
theorem test_5XY0_no : (ran (start [(0, 0x10), (1, 0x11)]) 0x5010).map State.pc = some 0x202 := by decide
-- B16, B17
theorem test_9XY0 : (ran (start [(0, 0x10), (1, 0x11)]) 0x9010).map State.pc = some 0x204 := by decide
theorem test_9XY0_no : (ran State.reset 0x9330).map State.pc = some 0x202 := by decide
-- B21, B22
theorem test_BNNN : (ran (start [(0, 0xFF)]) 0xBFFF).map State.pc = some 0x10FE := by decide
theorem test_BNNN_v0 : (ran (start [(0, 0x01), (5, 0x40)]) 0xB500).map State.pc = some 0x501 := by decide
-- M1
theorem test_ANNN : (ran State.reset 0xA2F0).map (fun t => (t.i, t.pc)) = some (0x2F0, 0x202) := by decide
-- M3, M4
theorem test_FX1E : (ran (withI (start [(1, 1)]) 0x0FFF []) 0xF11E).map (fun t => (t.i, t.reg VF)) = some (0x1000, 0) := by decide
theorem test_FX1E_wrap : (ran (withI (start [(1, 1)]) 0xFFFF []) 0xF11E).map State.i = some 0 := by decide
-- M6, M7
theorem test_FX29 : (ran (start [(0, 0x1B)]) 0xF029).map (fun t => (t.i, t.pc)) = some (0x37, 0x202) := by decide
theorem test_FX29_F : (ran (start [(0, 0x0F)]) 0xF029).map State.i = some 0x4B := by decide
-- W7, M16
theorem test_FX33 : (ran (withI (start [(4, 205)]) 0x300 []) 0xF433).map
    (fun t => (t.byteAt 0x300, t.byteAt 0x301, t.byteAt 0x302, t.i, t.pc)) = some (2, 0, 5, 0x300, 0x202) := by decide
theorem test_FX33_ignore :
    (ran { withI (start [(1, 0x7B)]) 0x04E [] with params := { Config.decided with glyphWritePolicy := .ignore } } 0xF133).map
      (fun t => (t.byteAt 0x04E, t.byteAt 0x04F, t.byteAt 0x050)) = some (0x80, 0x80, 3) := by decide
-- M18, M20
theorem test_FX55 : (ran (withI (start [(0, 0x11), (1, 0x22), (2, 0x33)]) 0x300 []) 0xF155).map
    (fun t => (t.byteAt 0x300, t.byteAt 0x301, t.byteAt 0x302, t.i)) = some (0x11, 0x22, 0, 0x300) := by decide
theorem test_FX55_past_end : (ran (withI (start [(0, 0x11)]) 0xFF1 []) 0xFF55).map (fun t => (t.err, t.byteAt 0xFF1))
    = some (some ⟨.addressViolation, 0x200, some 0xFF55⟩, 0) := by decide
-- M22, M24
theorem test_FX65 : (ran State.reset 0xF465).map (fun t => (t.reg 0, t.reg 1, t.reg 4, t.reg 5)) = some (0xF0, 0x90, 0xF0, 0) := by
  decide
theorem test_FX65_past_end : (ran (withI (start [(0, 7)]) 0xFFF [0x55]) 0xF165).map (fun t => (t.reg 0, t.mode)) = some (7, .halted) := by
  decide
-- D13
theorem test_00E0 : (ran { start [(VF, 7)] with fb := FrameBuffer.clear.flip 63 31, fbChanged := false } 0x00E0).map
    (fun t => (t.fb.pixel 63 31, t.fbChanged, t.reg VF)) = some (false, true, 7) := by decide
-- W4, D6
theorem test_DXYN_wrap : (ran (withI (start [(0, 60)]) 0x300 [0xFF]) 0xD011).map
    (fun t => (t.fb.pixel 60 0, t.fb.pixel 3 0, t.fb.pixel 4 0, t.reg VF)) = some (true, true, false, 0) := by decide
theorem test_DXYN_collision : (ran { withI State.reset 0x300 [0xC0] with fb := FrameBuffer.clear.flip 0 0 } 0xD011).map
    (fun t => (t.fb.pixel 0 0, t.fb.pixel 1 0, t.reg VF, t.fbChanged)) = some (false, true, 1, true) := by decide
-- K1, K5
theorem test_EX9E : (ran ((start [(1, 5)]).setKeyFlag 5 true) 0xE19E).map (fun t => (t.pc, t.key 5)) = some (0x204, true) := by decide
theorem test_EX9E_range : (ran (start [(1, 0x10)]) 0xE19E).map State.err = some (some ⟨.keyRangeViolation, 0x200, some 0xE19E⟩) := by
  decide
-- K3, K4
theorem test_EXA1 : (ran (start [(1, 5)]) 0xE1A1).map State.pc = some 0x204 := by decide
theorem test_EXA1_down : (ran ((start [(1, 5)]).setKeyFlag 5 true) 0xE1A1).map State.pc = some 0x202 := by decide
-- K7, K15
theorem test_FX0A : (ran { State.reset with pc := 0x210 } 0xF30A).map (fun t => (t.mode, t.pc)) = some (.awaitingKey 3, 0x210) := by
  decide
theorem test_FX0A_completes : (ran State.reset 0xFF0A).map (fun t => flagView VF (setKeyOp 0xC true t)) = some (0x0C, 0x0C, 0x202) := by
  decide
-- T1
theorem test_FX07 : (ran { State.reset with dt := 0x3C } 0xF207).map (fun t => (t.reg 2, t.dt)) = some (0x3C, 0x3B) := by decide
-- T2, T6
theorem test_FX15 : (ran (start [(2, 5)]) 0xF215).map State.dt = some 4 := by decide
theorem test_FX15_decoupled :
    (ran { start [(2, 0x3C)] with params := { Config.decided with timerCoupling := .decoupled } } 0xF215).map State.dt = some 0x3C := by
  decide
-- T4, T5
theorem test_FX18 : (ran (start [(2, 1)]) 0xF218).map State.st = some 0 := by decide
theorem test_FX18_tick : (ran (start [(2, 0x10)]) 0xF218).map State.st = some 0x0F := by decide

/-! ## The cycle and the host operations -/

-- E2: the step from reset with nothing loaded
theorem test_reset_word_is_unsupported : (ran State.reset 0x0000).map (fun t => (t.err, t.mode))
    = some (some ⟨.unsupportedInstruction, 0x200, some 0x0000⟩, .halted) := by decide
-- E7: a fetch that wraps
theorem test_fetch_wraps :
    fetch ({ State.reset with pc := 0xFFF, params := { Config.decided with addrPolicy := .wrap } }.setByte 0xFFF 0x60) = .ok 0x60F0 := rfl
-- E9: an aborted cycle does not tick
theorem test_abort_does_not_tick : (ran { State.reset with dt := 5 } 0xFFFF).map State.dt = some 5 := by decide
-- T8: decoupled timers tick while Halted
theorem test_tick_while_halted :
    hostOp .tickTimers { State.reset with dt := 2, mode := .halted, params := { Config.decided with timerCoupling := .decoupled } } =
      .next ({ State.reset with dt := 1, mode := .halted, params := { Config.decided with timerCoupling := .decoupled } }, .none) := rfl
-- W8: load, then the first cycle
theorem test_first_cycle :
    (match run [.load 0x200 [0x60, 0x0A], .cycle] State.reset with
      | .next (t, rs) => some (t.reg 0, t.pc, rs)
      | .fault _ => none
      | .refused _ => none) = some (0x0A, 0x202, [.success, .cycle .ok]) := by decide
-- H9: reset erases a loaded program
theorem test_reset_erases : ((resetOp (State.reset.setByte 0x200 0xAB)).byteAt 0x200, State.reset.byteAt 0x019) = (0x00, 0xF0) := by decide

/-! ## Witnesses: for each statement with hypotheses, a concrete state and operands that meet all of them; one for each clause, at a
boundary of its range -/

/-- The parameters with another ADDR_POLICY, GLYPH_WRITE_POLICY, TIMER_COUPLING or SHIFT_SOURCE. -/
def wrapping : Params := { Config.decided with addrPolicy := .wrap }
def glyphs (g : GlyphWritePolicy) : Params := { Config.decided with glyphWritePolicy := g }
def decoupled : Params := { Config.decided with timerCoupling := .decoupled }
def shiftingVy : Params := { Config.decided with shiftSource := .vy }

/-- The reset state with the word `w` at 0x200. -/
def holding (w : Nat) : State := State.reset.withFetchWord 16 w

/-- A halted and a waiting machine. -/
def halted : State := { State.reset with mode := .halted, err := some ⟨.stackUnderflow, 0x200, some 0x00EE⟩ }
def waiting (x : Reg) : State := { State.reset with mode := .awaitingKey x }

theorem witness_EncodeOfDecode : decodeWord 0xDEF7 = .ok (.drw 14 15 7) := rfl

theorem witness_NoWordMatchesTwoRows :
    ∃ (h : 33 < decodeTable.length), (0xFF65 : Word) &&& decodeTable[33].mask = decodeTable[33].pattern := by decide

theorem witness_Fetch_in_memory : ({ State.reset with pc := 0xFFE } : State).pc.toNat + 1 < 0x1000 := by decide
theorem witness_Fetch_rejected : ({ State.reset with pc := 0xFFF } : State).params.addrPolicy = .reject ∧
    0xFFF ≤ ({ State.reset with pc := 0xFFF } : State).pc.toNat ∧ ({ State.reset with pc := 0xFFF } : State).mode = .running := by decide
theorem witness_Fetch_wraps : ({ State.reset with pc := 0xFFF, params := wrapping } : State).params.addrPolicy = .wrap := by decide

theorem witness_StepRuns : ∃ t, (holding 0x6A42).mode = .running ∧ memRead (holding 0x6A42) (holding 0x6A42).pc.toNat = .ok 0x6A ∧
    memRead (holding 0x6A42) ((holding 0x6A42).pc.toNat + 1) = .ok 0x42 ∧ decodeWord (wordOfBytes 0x6A 0x42) = .ok (.ldImm 10 0x42) ∧
    exec (.ldImm 10 0x42) (holding 0x6A42) = .next t := ⟨_, rfl, rfl, rfl, rfl, rfl⟩

theorem witness_PlacedWord : Memory.wf State.reset.params.glyphTable State.reset.mem = true ∧ 0xFFFF < 65536 := by decide
theorem witness_PlacedWord_fetchable : ({ State.reset with pc := 0xFFE } : State).pc.toNat + 1 < 0x1000 ∧
    ({ State.reset with pc := 0xFFFF, params := wrapping } : State).params.addrPolicy = .wrap := by decide
theorem witness_PlacedWord_unfetchable : ({ State.reset with pc := 0xFFF } : State).params.addrPolicy = .reject ∧
    0xFFF ≤ ({ State.reset with pc := 0xFFF } : State).pc.toNat := by decide

theorem witness_UnsupportedWord : (holding 0xF175).mode = .running ∧ fetch (holding 0xF175) = .ok 0xF175 ∧
    ∀ r ∈ decodeTable, (0xF175 : Word) &&& r.mask ≠ r.pattern := ⟨rfl, rfl, by decide⟩

theorem witness_HaltedUntilReset : halted.mode = .halted ∧ halted.err = some ⟨.stackUnderflow, 0x200, some 0x00EE⟩ ∧
    hostOp (.load 0x1000 []) halted = .next (halted, .success) ∧ HostOp.load 0x1000 [] ≠ .reset := ⟨rfl, rfl, rfl, by decide⟩

theorem witness_WaitingCycle : (waiting 15).mode = .awaitingKey 15 ∧ (waiting 15).params.timerCoupling = .perCycle ∧
    ({ waiting 15 with params := decoupled } : State).params.timerCoupling = .decoupled := by decide
theorem witness_WaitingCycle_release : ∃ t r, (waiting 15).mode = .awaitingKey 15 ∧
    hostOp (.setKey 0 false) (waiting 15) = .next (t, r) ∧ HostOp.setKey 0 false ≠ .reset ∧
    ∀ c, HostOp.setKey 0 false ≠ .setKey c true := ⟨_, _, rfl, rfl, by decide, by decide⟩

theorem witness_CompletedCycle_running : ∃ u w i, (holding 0x00E0).mode = .running ∧ u.mode ≠ .halted ∧ u.mode = .running ∧
    fetch (holding 0x00E0) = .ok w ∧ decodeWord w = .ok i ∧ exec i (holding 0x00E0) = .next u :=
  ⟨_, _, .cls, rfl, by decide, rfl, rfl, rfl, rfl⟩
theorem witness_CompletedCycle_suspends : ∃ u w i, (holding 0xFF0A).mode = .running ∧ u.mode ≠ .halted ∧ u.mode = .awaitingKey 15 ∧
    fetch (holding 0xFF0A) = .ok w ∧ decodeWord w = .ok i ∧ exec i (holding 0xFF0A) = .next u :=
  ⟨_, _, .ldVxK 15, rfl, by decide, rfl, rfl, rfl, rfl⟩
theorem witness_CompletedCycle_waiting : (∃ x, (waiting 0).mode = .awaitingKey x) ∧
    ({ waiting 0 with params := decoupled } : State).params.timerCoupling = .decoupled := ⟨⟨0, rfl⟩, rfl⟩

theorem witness_FailedCycle_decode : ∃ t, (holding 0x0000).mode = .running ∧ step (holding 0x0000) = .next t ∧ t.mode = .halted ∧
    fetch (holding 0x0000) = .ok 0x0000 := ⟨_, rfl, rfl, rfl, rfl⟩
theorem witness_FailedCycle_fetch : ∃ t, ({ State.reset with pc := 0xFFF } : State).mode = .running ∧
    step { State.reset with pc := 0xFFF } = .next t ∧ t.mode = .halted ∧
    fetch { State.reset with pc := 0xFFF } = .error .addressViolation := ⟨_, rfl, rfl, rfl, rfl⟩

theorem witness_InstructionRaises : ∃ t, State.reset.mode ≠ .halted ∧ exec .ret State.reset = .next t ∧ t.mode = .halted :=
  ⟨_, by decide, rfl, rfl⟩

theorem witness_ResetLeaves : (∃ t, hostOp .reset (waiting 3) = .next (t, .none)) ∧ (∃ t, hostOp .reset halted = .next (t, .none)) ∧
    0x4F < 0x50 ∧ 0x50 ≤ 0xFFF ∧ 0xFFF < 0x1000 := ⟨⟨_, rfl⟩, ⟨_, rfl⟩, by decide⟩

/-- A state that meets the invariant, with a program byte in memory and a call outstanding. -/
def running : State := { holding 0x00EE with sp := 1, stack := State.reset.stack.set 0 0x1000 }

theorem witness_Inv : MachineInv running where
  memory := by decide
  pc := by decide
  returns := by decide
  waiting := by intro _ x h; cases h
  status := by decide

theorem witness_StepKeepsTheInvariant : ∃ t, MachineInv running ∧ step running = .next t ∧ t.pc = 0x1000 := ⟨_, witness_Inv, rfl, rfl⟩

theorem witness_EveryRun : ∃ t rs, MachineInv running ∧ run [.setKey 3 true, .load 0xFFF [0xAB], .cycle] running = .next (t, rs) :=
  ⟨_, _, witness_Inv, rfl⟩

theorem witness_GlyphTable : ∃ t r, State.reset.params.glyphWritePolicy ≠ .write ∧ HostOp.load 0x200 [0x12] ≠ .reset ∧
    hostOp (.load 0x200 [0x12]) State.reset = .next (t, r) ∧ 0x4F < 0x50 := ⟨_, _, by decide, by decide, rfl, by decide⟩

theorem witness_NoCycleWritesKeys : ∃ t, step ((holding 0xE09E).setKeyFlag 0 true) = .next t := ⟨_, rfl⟩

theorem witness_OnlyCallAndReturn : ∃ t, exec (.jp 0xFFF) State.reset = .next t ∧ (∀ nnn, Instr.jp 0xFFF ≠ .call nnn) ∧
    Instr.jp 0xFFF ≠ .ret := ⟨_, rfl, by simp, by decide⟩

theorem witness_OnlyClearAndDraw : ∃ t, exec (.ldF 15) State.reset = .next t ∧ Instr.ldF 15 ≠ .cls ∧
    ∀ x y n, Instr.ldF 15 ≠ .drw x y n := ⟨_, rfl, by decide, by simp⟩

theorem witness_OnlyKeyWait : ∃ t, exec (.ldVxK 15) State.reset = .next t ∧ t.mode = .awaitingKey 15 := ⟨_, rfl, rfl⟩

theorem witness_Read_reject : 4096 ≤ 0x1000 ∧ State.reset.params.addrPolicy = .reject ∧ 0xFFF < 4096 := by decide
theorem witness_Read_wrap : 4096 ≤ 0x1000 ∧ ({ State.reset with params := wrapping } : State).params.addrPolicy = .wrap := by decide

theorem witness_Write_wf : Memory.wf running.params.glyphTable running.mem = true := by decide
theorem witness_Write_wrap : Memory.wf ({ running with params := wrapping } : State).params.glyphTable running.mem = true ∧
    4096 ≤ 0x1000 ∧ ({ running with params := wrapping } : State).params.addrPolicy = .wrap ∧ 0 = 0x1000 % 4096 := by decide
theorem witness_Write_glyph : 0x4F ≤ 0x04F ∧ running.params.glyphWritePolicy = .fault ∧
    ({ running with params := glyphs .ignore } : State).params.glyphWritePolicy = .ignore ∧
    ({ running with params := glyphs .write } : State).params.glyphWritePolicy = .write ∧ 0x04F < 0x50 := by decide

theorem witness_Load_success : 0x200 ≤ (0xFFF : Word).toNat ∧ (0xFFF : Word).toNat + [0xAB].length ≤ 0x1000 ∧
    0x200 ≤ (0x1000 : Word).toNat ∧ (0x1000 : Word).toNat + ([] : List Byte).length ≤ 0x1000 := by decide
theorem witness_Load_refused : (0x1FF : Word).toNat < 0x200 ∧ 0x1000 < (0xFFF : Word).toNat + [0xAB, 0xCD].length := by decide

theorem witness_KeyEvent_completes : true = true ∧ (waiting 15).mode = .awaitingKey 15 := by decide
theorem witness_KeyEvent_flag_only : false = false ∧ ∀ x, halted.mode ≠ .awaitingKey x := by decide

theorem witness_TickTimers : ({ State.reset with params := decoupled } : State).params.timerCoupling = .decoupled ∧
    State.reset.params.timerCoupling = .perCycle := by decide

theorem witness_FlagOps : (0 : Reg) ≠ VF := by decide

theorem witness_Shifts_vx : (start [(1, 0x81)]).params.shiftSource = .vx ∧ 0x81 = ((start [(1, 0x81)]).reg 1).toNat := by decide
theorem witness_Shifts_vy : ({ start [(2, 0x81)] with params := shiftingVy } : State).params.shiftSource = .vy ∧
    0x81 = (({ start [(2, 0x81)] with params := shiftingVy } : State).reg 2).toNat := by decide

theorem witness_Call : ({ State.reset with sp := 15 } : State).sp.val < 16 ∧ ({ State.reset with sp := 16 } : State).sp.val = 16 := by
  decide
theorem witness_Return : 0 < ({ State.reset with sp := 16 } : State).sp.val ∧ ({ State.reset with sp := 16 } : State).sp.val - 1 < 16 ∧
    State.reset.sp.val = 0 := by decide

/-- Under reject the bytes at I, I + 1, ... can be stored, and read, when they lie in memory above the glyph table. -/
theorem storable (s : State) (n : Nat) (h1 : 0x50 ≤ s.i.toNat) (h2 : s.i.toNat + n ≤ 0x1000) : Storable s n := by
  intro k hk
  refine ⟨s.i.toNat + k, if_pos ?_, .inl ?_⟩
  · show s.i.toNat + k < 0x1000
    omega
  · show 80 ≤ s.i.toNat + k
    omega

theorem readable (s : State) (n : Nat) (h : s.i.toNat + n ≤ 0x1000) : Readable s n := by
  intro k hk
  refine ⟨s.i.toNat + k, if_pos ?_⟩
  show s.i.toNat + k < 0x1000
  omega

theorem witness_Bcd_stores : Memory.wf (withI running 0xFFD []).params.glyphTable (withI running 0xFFD []).mem = true ∧
    Storable (withI running 0xFFD []) 3 ∧ Storable (withI running 0x050 []) 3 :=
  ⟨by decide, storable _ _ (by decide) (by decide), storable _ _ (by decide) (by decide)⟩
theorem witness_Bcd_outside : (withI running 0xFFE []).params.addrPolicy = .reject ∧ 0x1000 ≤ (withI running 0xFFE []).i.toNat + 2 := by
  decide
theorem witness_Bcd_glyph : (withI running 0x04F []).params.glyphWritePolicy = .fault ∧
    ∃ k < 3, ∃ c < 0x50, resolve (withI running 0x04F []).params.addrPolicy (effectiveAddr (withI running 0x04F []) k) = .ok c :=
  ⟨rfl, 0, by decide, 0x4F, by decide, rfl⟩

theorem witness_BulkStore_stores : Memory.wf (withI running 0xFF0 []).params.glyphTable (withI running 0xFF0 []).mem = true ∧
    Storable (withI running 0xFF0 []) ((15 : Reg).val + 1) := ⟨by decide, storable _ _ (by decide) (by decide)⟩
theorem witness_BulkStore_outside : (withI running 0xFF1 []).params.addrPolicy = .reject ∧
    0x1000 ≤ (withI running 0xFF1 []).i.toNat + (15 : Reg).val := by decide
theorem witness_BulkStore_glyph : (withI running 0x04F []).params.glyphWritePolicy = .fault ∧
    ∃ k ≤ (0 : Reg).val, ∃ c < 0x50, resolve (withI running 0x04F []).params.addrPolicy (effectiveAddr (withI running 0x04F []) k) = .ok c :=
  ⟨rfl, 0, by decide, 0x4F, by decide, rfl⟩

theorem witness_BulkLoad_loads : Readable (withI running 0xFF0 []) ((15 : Reg).val + 1) ∧ (15 : Reg) ≤ 15 ∧
    resolve (withI running 0xFF0 []).params.addrPolicy (effectiveAddr (withI running 0xFF0 []) (15 : Reg).val) = .ok 0xFFF :=
  ⟨readable _ _ (by decide), by decide, rfl⟩
theorem witness_BulkLoad_outside : (withI running 0xFFF []).params.addrPolicy = .reject ∧
    0x1000 ≤ (withI running 0xFFF []).i.toNat + (1 : Reg).val := by decide

theorem witness_Draw_draws : Readable (withI running 0xFF1 []) (15 : Fin 16).val ∧ Readable (withI running 0x1000 []) (0 : Fin 16).val :=
  ⟨readable _ _ (by decide), readable _ _ (by decide)⟩
theorem witness_Draw_outside : (withI running 0x1000 []).params.addrPolicy = .reject ∧ 1 ≤ (1 : Fin 16).val ∧
    0x1000 ≤ (withI running 0x1000 []).i.toNat + (1 : Fin 16).val - 1 := by decide
theorem witness_TwoDraws : (0 : Reg) ≠ VF ∧ (14 : Reg) ≠ VF ∧ Readable (withI running 0xFF1 []) (15 : Fin 16).val :=
  ⟨by decide, by decide, readable _ _ (by decide)⟩

theorem witness_KeySkips : ((start [(1, 0x0F)]).reg 1).toNat = (15 : Fin 16).val ∧ 0x0F < ((start [(1, 0x10)]).reg 1).toNat := by decide

theorem witness_KeyWait : (holding 0xFF0A).mode = .running ∧ fetch (holding 0xFF0A) = .ok (encode (.ldVxK 15)) := ⟨rfl, rfl⟩

theorem witness_TimerSet : (holding 0xF015).mode = .running ∧ fetch (holding 0xF015) = .ok (encode (.ldDtVx 0)) ∧
    fetch (holding 0xFF18) = .ok (encode (.ldStVx 15)) ∧
    fetch { holding 0xF015 with params := decoupled } = .ok (encode (.ldDtVx 0)) := ⟨rfl, rfl, rfl, rfl⟩

end Sys2Proof.Tests
end

/-! ## The state family: what an execution can do, the invariant, and the frames of whole-machine rules

`Executes` says once what executing an instruction can do to the state; the invariant of the machine and the rules about keys,
call stack and framebuffer are read off its cases. -/

namespace Sys2Proof.Machine

variable {s t : State}

/-! ### What an execution can do -/

/-- The outcomes of executing an instruction in `s`, by what they do to control, stack, framebuffer and MODE. -/
inductive Executes (s : State) : Instr → State → Prop
  /-- An error, taken: nothing but MODE and ERR changes (spec/40_engine.md R128). -/
  | aborts (i : Instr) (k : ErrorKind) : Executes s i (s.abort k (some (encode i)))
  /-- Work on V, I, the timers, the draw count and memory, whose form it keeps; then `next()` or `skip()`. -/
  | proceeds (i : Instr) {v : Vector Byte 16} {a : Word} {dt st : Byte} {draws : Nat} {mem : Memory} (skips : Bool)
      (hmem : Memory.wf s.params.glyphTable s.mem = true → Memory.wf s.params.glyphTable mem = true) :
      Executes s i (({ s with v := v, i := a, dt := dt, st := st, draws := draws, mem := mem } : State).skipIf skips)
  /-- 00E0 (spec/44_display.md R261). -/
  | clears : Executes s .cls (s.present FrameBuffer.clear).next
  /-- DXYN (spec/44_display.md R262). -/
  | paints (x y : Reg) (n : Fin 16) (fb : FrameBuffer) (hit : Bool) :
      Executes s (.drw x y n) ((s.present fb).setFlag hit).next
  /-- 1NNN (spec/42_control.md R201). -/
  | jumps (nnn : Addr) : Executes s (.jp nnn) (s.jump (zext16 nnn))
  /-- BNNN (spec/42_control.md R208). -/
  | jumpsIndexed (nnn : Addr) : Executes s (.jpV0 nnn) (s.jump (indexedTarget s nnn))
  /-- 2NNN below the depth of the stack (spec/42_control.md R202). -/
  | calls (nnn : Addr) (h : s.sp.val < Config.stackDepth) :
      Executes s (.call nnn) (({ s with
        stack := s.stack.set s.sp.val (returnAddr s)
        sp := ⟨s.sp.val + 1, Nat.succ_lt_succ h⟩ } : State).jump (zext16 nnn))
  /-- 00EE above the bottom of the stack (spec/42_control.md R203). -/
  | returns (h : s.sp.val - 1 < Config.stackDepth) (h' : s.sp.val - 1 < Config.stackDepth + 1) :
      Executes s .ret (({ s with sp := ⟨s.sp.val - 1, h'⟩ } : State).jump s.stack[s.sp.val - 1])
  /-- FX0A (spec/45_input.md R283). -/
  | waits (x : Reg) : Executes s (.ldVxK x) (s.setMode (.awaitingKey x))

/-- Work on V, I, the timers and the draw count, then `next()`. -/
theorem Executes.next (i : Instr) (v : Vector Byte 16) (a : Word) (dt st : Byte) (draws : Nat) :
    Executes s i ({ s with v := v, i := a, dt := dt, st := st, draws := draws } : State).next :=
  .proceeds i false id

/-- The skips do no work before `next()` or `skip()`. -/
theorem Executes.skipIf (i : Instr) (c : Bool) : Executes s i (s.skipIf c) := .proceeds i c id

/-- An execution that ends in `finish` aborts, or leaves the state it computed. -/
theorem Executes.of_finish {i : Instr} {r : Except ErrorKind State} (h : finish i s r = .next t)
    (hok : ∀ u, r = .ok u → Executes s i u) : Executes s i t := by
  rcases finish_cases h with hr | ⟨k, -, rfl⟩
  · exact hok t hr
  · exact .aborts i k

/-- A store through I keeps the form of memory and changes nothing else but PC (spec/43_memory_index.md R234, R235). -/
theorem Executes.of_storeAtI {i : Instr} {bytes : List Byte} (h : storeAtI bytes s = .ok t) : Executes s i t := by
  unfold storeAtI at h
  split at h
  · cases h
  · next u hu =>
    cases h
    have hwf := writeBytes_wf hu
    obtain ⟨m, rfl⟩ := writeBytes_mem_only hu
    exact .proceeds i false hwf

theorem Executes.of_execCall {nnn : Addr} (h : execCall nnn s = .next t) : Executes s (.call nnn) t := by
  refine .of_finish h fun u hu => ?_
  split at hu
  · cases hu
  · next p hp =>
    cases hu
    rcases State.push_cases hp with ⟨-, he⟩ | ⟨hsp, he⟩
    · cases he
    · cases he; exact .calls nnn hsp

theorem Executes.of_execRet (h : execRet s = .next t) : Executes s .ret t := by
  refine .of_finish h fun u hu => ?_
  rcases State.popJump_cases hu with ⟨-, he⟩ | ⟨-, h1, h2, he⟩
  · cases he
  · cases he; exact .returns h1 h2

theorem Executes.of_execDrw {x y : Reg} {n : Fin 16} (h : execDrw x y n s = .next t) : Executes s (.drw x y n) t := by
  refine .of_finish h fun u hu => ?_
  split at hu
  · cases hu
  · cases hu; exact .paints x y n _ _

theorem Executes.of_execLdVxMem {x : Reg} (h : execLdVxMem x s = .next t) : Executes s (.ldVxMem x) t := by
  refine .of_finish h fun u hu => ?_
  split at hu
  · cases hu
  · next bs _ =>
    cases hu
    obtain ⟨v, hv⟩ := State.setRegs_v_only bs s 0
    rw [hv]
    exact .next _ v _ _ _ _

/-- Executing an instruction has one of the outcomes of `Executes`. -/
theorem executes_of_exec {i : Instr} (h : exec i s = .next t) : Executes s i t := by
  cases i with
  | cls => cases h; exact .clears
  | ret => exact .of_execRet h
  | jp nnn => cases h; exact .jumps nnn
  | call nnn => exact .of_execCall h
  | jpV0 nnn => cases h; exact .jumpsIndexed nnn
  | drw x y n => exact .of_execDrw h
  | ldVxK x => cases h; exact .waits x
  | seImm | sneImm | seReg | sneReg => cases h; exact .skipIf _ _
  | skp | sknp =>
    refine .of_finish h fun u hu => ?_
    split at hu
    · cases hu
    · cases hu; exact .skipIf _ _
  | ldB | ldMemVx => exact .of_finish h fun u hu => .of_storeAtI hu
  | ldVxMem => exact .of_execLdVxMem h
  | ldImm | addImm | ldReg | orReg | andReg | xorReg | addReg | subReg | shr | subnReg | shl | rnd
  | ldI | addI | ldF | ldVxDt | ldDtVx | ldStVx => cases h; exact .next _ _ _ _ _ _

/-! ### Bounds on the program counter under reject (spec/10_state.md R24) -/

theorem next_pc_le (h : s.pc.toNat ≤ 0xFFE) : (s.pc + 2).toNat ≤ 0x1000 := by
  rw [BitVec.toNat_add, show (2 : Word).toNat = 2 from rfl]; omega

theorem skip_pc_le (h : s.pc.toNat ≤ 0xFFE) : (s.pc + 4).toNat ≤ 0x1002 := by
  rw [BitVec.toNat_add, show (4 : Word).toNat = 4 from rfl]; omega

theorem skipIf_pc_le (c : Bool) (h : s.pc.toNat ≤ 0xFFE) : (if c then s.pc + 4 else s.pc + 2).toNat ≤ 0x10FE := by
  cases c
  · exact (next_pc_le h).trans (by decide)
  · exact (skip_pc_le h).trans (by decide)

theorem zext16_addr_le (nnn : Addr) : (zext16 nnn).toNat ≤ 0xFFF := by
  have := nnn.isLt
  rw [zext16, BitVec.toNat_setWidth]; omega

/-- The largest target of BNNN is 0xFFF + 0xFF. -/
theorem indexedTarget_le (s : State) (nnn : Addr) : (indexedTarget s nnn).toNat ≤ 0x10FE := by
  have := nnn.isLt
  have := (s.reg 0).isLt
  rw [indexedTarget, zext16, zext16, BitVec.toNat_add, BitVec.toNat_setWidth, BitVec.toNat_setWidth]; omega

/-! ### What keeps the invariant -/

namespace MachineInv

/-- The invariant does not look at V, I, SP, the timers, the keys, the framebuffer or the draw count. -/
theorem untouched (hs : MachineInv s) (v : Vector Byte 16) (i : Word) (sp : Fin (Config.stackDepth + 1)) (dt st : Byte)
    (keys : Vector Bool 16) (fb : FrameBuffer) (fbChanged : Bool) (draws : Nat) :
    MachineInv { s with v := v, i := i, sp := sp, dt := dt, st := st, keys := keys, fb := fb, fbChanged := fbChanged,
                        draws := draws } :=
  ⟨hs.memory, hs.pc, hs.returns, hs.waiting, hs.status⟩

theorem withMem (hs : MachineInv s) {mem : Memory} (h : Memory.wf s.params.glyphTable mem = true) :
    MachineInv { s with mem := mem } :=
  ⟨h, hs.pc, hs.returns, hs.waiting, hs.status⟩

theorem abort (hs : MachineInv s) (k : ErrorKind) (w : Option Word) : MachineInv (s.abort k w) where
  memory := hs.memory
  pc := hs.pc
  returns := hs.returns
  waiting := by intro _ x h; cases h
  status := by simp

theorem tick (hs : MachineInv s) : MachineInv s.tick := hs.untouched ..

theorem cycleTick (hs : MachineInv s) : MachineInv s.cycleTick := by
  unfold State.cycleTick
  split
  · exact hs.tick
  · exact hs

theorem endCycle (hs : MachineInv s) : MachineInv (endCycle s) := by
  rcases endCycle_cases s with ⟨-, h⟩ | ⟨-, h⟩ <;> rw [h]
  · exact hs
  · exact hs.cycleTick

/-- A running engine may go to any address up to 0x10FE. -/
theorem jump (hs : MachineInv s) (hm : s.mode = .running) {a : Word}
    (ha : s.params.addrPolicy = .reject → a.toNat ≤ 0x10FE) : MachineInv (s.jump a) where
  memory := hs.memory
  pc := ha
  returns := hs.returns
  waiting := by intro _ x h; rw [State.jump_mode, hm] at h; cases h
  status := hs.status

theorem skipIf (hs : MachineInv s) (hm : s.mode = .running) (c : Bool)
    (hpc : s.params.addrPolicy = .reject → s.pc.toNat ≤ 0xFFE) : MachineInv (s.skipIf c) := by
  have h : s.skipIf c = s.jump (if c then s.pc + 4 else s.pc + 2) := by cases c <;> rfl
  rw [h]
  exact hs.jump hm fun hp => skipIf_pc_le c (hpc hp)

theorem next (hs : MachineInv s) (hm : s.mode = .running)
    (hpc : s.params.addrPolicy = .reject → s.pc.toNat ≤ 0xFFE) : MachineInv s.next := hs.skipIf hm false hpc

/-- Writing a return address at or below 0x1000 to the stack. -/
theorem setStack (hs : MachineInv s) {k : Nat} (hk : k < Config.stackDepth) {a : Word}
    (ha : s.params.addrPolicy = .reject → a.toNat ≤ 0x1000) : MachineInv { s with stack := s.stack.set k a } where
  memory := hs.memory
  pc := hs.pc
  returns := by
    intro hp j hj
    rw [Vector.getElem_set]
    split
    · exact ha hp
    · exact hs.returns hp j hj
  waiting := hs.waiting
  status := hs.status

/-- An engine that has not halted may begin or end a wait where PC allows one. -/
theorem setMode (hs : MachineInv s) (hm : s.mode ≠ .halted) {m : Mode} (hm' : m ≠ .halted)
    (hpc : s.params.addrPolicy = .reject → s.pc.toNat ≤ 0xFFE) : MachineInv (s.setMode m) where
  memory := hs.memory
  pc := hs.pc
  returns := hs.returns
  waiting := fun hp _ _ => hpc hp
  status := iff_of_false hm' (mt hs.status.mpr hm)

/-- Executing an instruction that was fetched keeps the invariant. -/
theorem executes (hs : MachineInv s) (hm : s.mode = .running)
    (hpc : s.params.addrPolicy = .reject → s.pc.toNat ≤ 0xFFE) {i : Instr} (h : Executes s i t) : MachineInv t := by
  cases h with
  | aborts i k => exact hs.abort k _
  | proceeds i skips hmem => exact ((hs.withMem (hmem hs.memory)).untouched ..).skipIf hm skips hpc
  | clears => exact (hs.untouched ..).next hm hpc
  | paints x y n fb hit => exact (hs.untouched ..).next hm hpc
  | jumps nnn => exact hs.jump hm fun _ => (zext16_addr_le nnn).trans (by decide)
  | jumpsIndexed nnn => exact hs.jump hm fun _ => indexedTarget_le s nnn
  | calls nnn hsp =>
    have hpushed := hs.setStack hsp (a := returnAddr s) fun hp => next_pc_le (hpc hp)
    exact (hpushed.untouched ..).jump hm fun _ => (zext16_addr_le nnn).trans (by decide)
  | returns hsp hsp' => exact (hs.untouched (sp := ⟨_, hsp'⟩) ..).jump hm fun hp => (hs.returns hp _ hsp).trans (by decide)
  | waits x => exact hs.setMode (by simp [hm]) (by simp) hpc

theorem step (hs : MachineInv s) (h : step s = .next t) : MachineInv t := by
  rcases step_cases h with ⟨-, rfl⟩ | ⟨x, -, rfl⟩ | ⟨-, k, -, rfl⟩ | ⟨-, w, -, -, rfl⟩ | ⟨hm, w, i, u, hw, -, hu, rfl⟩
  · exact hs
  · exact hs.cycleTick
  · exact hs.abort k none
  · exact hs.abort _ _
  · have hpc (hp : s.params.addrPolicy = .reject) : s.pc.toNat ≤ 0xFFE :=
      Nat.le_of_lt_succ (Nat.lt_of_succ_lt_succ (fetch_ok_pc hw hp))
    exact (hs.executes hm hpc (executes_of_exec hu)).endCycle

theorem resetOp (s : State) : MachineInv (resetOp s) where
  memory := Memory.wf_nil
  pc := fun _ => (by decide : State.reset.pc.toNat ≤ 0x10FE)
  returns := fun _ => (by decide : ∀ (j : Nat) (h : j < Config.stackDepth), (State.reset.stack[j]'h).toNat ≤ 0x1000)
  waiting := by intro _ x h; cases h
  status := (by decide : State.reset.mode = .halted ↔ State.reset.err.isSome = true)

theorem loadOp (hs : MachineInv s) {o : Word} {bs : List Byte} {r : HostResult} (h : (t, r) = loadOp o bs s) :
    MachineInv t := by
  rcases loadOp_cases h with ⟨-, hlen, rfl, -⟩ | ⟨rfl, -⟩
  · have hwf := setBytes_wf bs s o.toNat hlen hs.memory
    obtain ⟨m, hm⟩ := setBytes_mem_only bs s o.toNat
    rw [hm] at hwf ⊢
    exact hs.withMem hwf
  · exact hs

theorem setKeyFlag (hs : MachineInv s) (c : Fin 16) (d : Bool) : MachineInv (s.setKeyFlag c d) := hs.untouched ..

theorem completeWait (hs : MachineInv s) {x : Reg} (hm : s.mode = .awaitingKey x) (c : Fin 16) :
    MachineInv (completeWait s x c) := by
  have hpc (hp : s.params.addrPolicy = .reject) : s.pc.toNat ≤ 0xFFE := hs.waiting hp x hm
  have hrun : MachineInv (s.setMode .running) := hs.setMode (by simp [hm]) (by simp) hpc
  exact (hrun.untouched (s.setReg x (BitVec.ofNat 8 c.val)).v ..).next rfl hpc

theorem setKeyOp (hs : MachineInv s) (c : Fin 16) (d : Bool) : MachineInv (setKeyOp c d s) := by
  rcases setKeyOp_cases (s := s) c d with ⟨x, -, hm, h⟩ | ⟨-, h⟩ <;> rw [h]
  · exact (hs.setKeyFlag c true).completeWait hm c
  · exact hs.setKeyFlag c d

theorem hostOp (hs : MachineInv s) {op : HostOp} {r : HostResult} (h : hostOp op s = .next (t, r)) : MachineInv t := by
  rcases hostOp_cases h with ⟨-, rfl⟩ | ⟨o, bs, -, hl⟩ | ⟨-, hc, -⟩ | ⟨-, -, rfl⟩ | ⟨c, d, -, rfl⟩ | ⟨-, hf⟩ |
    ⟨-, rfl, -⟩ | ⟨-, rfl, -⟩
  · exact resetOp s
  · exact hs.loadOp hl
  · exact hs.step hc
  · exact hs.tick
  · exact hs.setKeyOp c d
  · cases hf; exact hs.untouched ..
  · exact hs
  · exact hs

end MachineInv

/-- What every host operation keeps, every run of them keeps. -/
theorem run_induct {P : State → Prop}
    (hop : ∀ {op : HostOp} {s t : State} {r : HostResult}, hostOp op s = .next (t, r) → P s → P t) :
    ∀ {ops : List HostOp} {s t : State} {rs : List HostResult}, run ops s = .next (t, rs) → P s → P t
  | [], _, _, _, h, hs => by cases h; exact hs
  | op :: rest, s, t, rs, h, hs => by
    unfold run at h
    split at h
    · cases h
    · cases h
    · next u r hu =>
      split at h
      · cases h
      · cases h
      · next hr => cases h; exact run_induct hop hr (hop hu hs)

/-! ### What the outcomes leave alone -/

theorem Executes.keys_params {i : Instr} (h : Executes s i t) : t.keys = s.keys ∧ t.params = s.params := by
  cases h <;> simp

theorem endCycle_keys_params (u : State) : (endCycle u).keys = u.keys ∧ (endCycle u).params = u.params := by
  rcases endCycle_cases u with ⟨-, h⟩ | ⟨-, h⟩ <;> simp [h]

/-! ### The obligations -/

/-- Settles O18: `Executes` lists what an execution can do, and each outcome keeps the invariant; a fetched instruction stands
at or below 0xFFE under reject. -/
theorem stepKeepsTheInvariant : Obligations.StepKeepsTheInvariant := by
  unfold Obligations.StepKeepsTheInvariant
  exact fun s t hs h => hs.step h

/-- Settles O19: by induction on the run, since every host operation keeps the invariant. -/
theorem everyRunKeepsTheInvariant : Obligations.EveryRunKeepsTheInvariant := by
  unfold Obligations.EveryRunKeepsTheInvariant
  exact fun ops s t rs hs h => run_induct (fun h hs => hs.hostOp h) h hs

/-- Settles O17: reset leaves memory empty, PC at 0x200, a stack of zeroes and the engine Running with no error. -/
theorem invariantHoldsAfterReset : Obligations.InvariantHoldsAfterReset := by
  unfold Obligations.InvariantHoldsAfterReset
  refine ⟨MachineInv.resetOp State.reset, fun s t r h => ?_⟩
  cases h
  exact MachineInv.resetOp s

/-- Settles O21: no outcome of an execution touches K or the parameters, and neither does the tick or taking an error. -/
theorem noCycleWritesKeys : Obligations.NoCycleWritesKeys := by
  unfold Obligations.NoCycleWritesKeys
  intro s t h
  rcases step_cases h with ⟨-, rfl⟩ | ⟨x, -, rfl⟩ | ⟨-, k, -, rfl⟩ | ⟨-, w, -, -, rfl⟩ | ⟨-, w, i, u, -, -, hu, rfl⟩
  · exact ⟨rfl, rfl⟩
  · simp [waitCycle]
  · exact ⟨rfl, rfl⟩
  · exact ⟨rfl, rfl⟩
  · obtain ⟨hk, hp⟩ := (executes_of_exec hu).keys_params
    obtain ⟨hk', hp'⟩ := endCycle_keys_params u
    exact ⟨hk'.trans hk, hp'.trans hp⟩

/-- Settles O22: of the outcomes of an execution only a call writes the stack, and only a call or a return moves SP. -/
theorem onlyCallAndReturnTouchTheStack : Obligations.OnlyCallAndReturnTouchTheStack := by
  unfold Obligations.OnlyCallAndReturnTouchTheStack
  intro i s t h
  cases executes_of_exec h with
  | calls nnn => exact ⟨fun hc => absurd rfl (hc nnn), fun hc _ => absurd rfl (hc nnn)⟩
  | returns => exact ⟨fun _ => rfl, fun _ hr => absurd rfl hr⟩
  | proceeds i skips => simp
  | aborts | clears | paints | jumps | jumpsIndexed | waits => exact ⟨fun _ => rfl, fun _ _ => rfl⟩

/-- Settles O23: of the outcomes of an execution only 00E0 and DXYN present a framebuffer. -/
theorem onlyClearAndDrawWriteTheFramebuffer : Obligations.OnlyClearAndDrawWriteTheFramebuffer := by
  unfold Obligations.OnlyClearAndDrawWriteTheFramebuffer
  intro i s t h hcls hdrw
  cases executes_of_exec h with
  | clears => exact absurd rfl hcls
  | paints x y n => exact absurd rfl (hdrw x y n)
  | proceeds i skips => simp
  | aborts | jumps | jumpsIndexed | calls | returns | waits => exact ⟨rfl, rfl⟩

end Sys2Proof.Machine

/-! ## The memory family: the two primitives under their policies, loads, and the glyph table

The address check has one equation per policy and a performed write is one `setByte`; a load copies its bytes; what an execution
can do to memory is said once, and the glyph table follows. -/

namespace Sys2Proof.Machine

variable {s t : State} {a b : Nat}

/-! ### The address check and the primitives, case by case (spec/20_memory.md R63, R64) -/

theorem resolve_reject {p : AddrPolicy} (h : Config.memSize ≤ a) (hp : p = .reject) :
    resolve p a = .error .addressViolation := by
  simp [resolve, Nat.not_lt.mpr h, hp]

theorem resolve_wrap {p : AddrPolicy} (h : Config.memSize ≤ a) (hp : p = .wrap) :
    resolve p a = .ok (a % Config.memSize) := by
  simp [resolve, Nat.not_lt.mpr h, hp]

theorem memWrite_of_resolve_error {v : Byte} {k : ErrorKind} (h : resolve s.params.addrPolicy a = .error k) :
    memWrite s a v = .error k := by
  simp only [memWrite, h]

theorem memWrite_glyph_fault {v : Byte} (h : resolve s.params.addrPolicy a = .ok b) (hb : b < Config.glyphSize)
    (hp : s.params.glyphWritePolicy = .fault) : memWrite s a v = .error .glyphWriteViolation := by
  simp only [memWrite, h, hb, hp, if_true]

theorem memWrite_glyph_ignore {v : Byte} (h : resolve s.params.addrPolicy a = .ok b) (hb : b < Config.glyphSize)
    (hp : s.params.glyphWritePolicy = .ignore) : memWrite s a v = .ok s := by
  simp only [memWrite, h, hb, hp, if_true]

/-- Outside the glyph table, or where the policy lets the table be written, the write is performed. -/
theorem memWrite_performed {v : Byte} (h : resolve s.params.addrPolicy a = .ok b)
    (hb : Config.glyphSize ≤ b ∨ s.params.glyphWritePolicy = .write) : memWrite s a v = .ok (s.setByte b v) := by
  by_cases hlt : b < Config.glyphSize
  · have hp := hb.resolve_left (Nat.not_le.mpr hlt)
    simp only [memWrite, h, hlt, hp, if_true]
  · simp only [memWrite, h, hlt, if_false]

/-! ### What a change of memory alone leaves -/

/-- Two states with the same parameters and memory read alike. -/
theorem State.byteAt_congr (hp : t.params = s.params) (hm : t.mem = s.mem) (n : Nat) : t.byteAt n = s.byteAt n := by
  simp only [State.byteAt, hp, hm]

/-- A new memory changes no component but bytes, so the untouched bytes are all there is to show. -/
theorem UnchangedBut.of_mem {touched : List Component} {m : Memory}
    (h : ∀ n, .mem n ∉ touched → ({ s with mem := m } : State).byteAt n = s.byteAt n) :
    UnchangedBut touched s { s with mem := m } := by
  intro c hc
  cases c with
  | mem n => exact h n hc
  | _ => rfl

theorem unchangedBut_setByte (s : State) (b : Nat) (v : Byte) : UnchangedBut [.mem b] s (s.setByte b v) :=
  .of_mem fun _ hn => s.setByte_byteAt_other v fun heq => hn (by simp [heq])

theorem unchangedBut_setBytes (s : State) (o : Nat) (bytes : List Byte) :
    UnchangedBut ((List.range bytes.length).map fun j => .mem (o + j)) s (s.setBytes o bytes) := by
  have hother := setBytes_byteAt_other bytes s o
  obtain ⟨m, hm⟩ := setBytes_mem_only bytes s o
  rw [hm] at hother ⊢
  refine .of_mem fun n hn => hother n ?_
  by_contra hin
  refine hn (List.mem_map.mpr ⟨n - o, List.mem_range.mpr ?_, congrArg Component.mem ?_⟩) <;> omega

/-! ### Loads (spec/20_memory.md R74) -/

theorem wellFormed_load_iff {o : Word} {bytes : List Byte} :
    WellFormed.load o bytes = true ↔ Config.programOrigin ≤ o.toNat ∧ o.toNat + bytes.length ≤ Config.memSize := by
  simp only [WellFormed.load, Bool.and_eq_true, decide_eq_true_eq]

theorem hostOp_load_success {o : Word} {bytes : List Byte} (ho : Config.programOrigin ≤ o.toNat)
    (hlen : o.toNat + bytes.length ≤ Config.memSize) :
    hostOp (.load o bytes) s = .next (s.setBytes o.toNat bytes, .success) := by
  simp only [hostOp, loadOp, wellFormed_load_iff.mpr ⟨ho, hlen⟩, if_true]

theorem hostOp_load_refused {o : Word} {bytes : List Byte}
    (h : ¬ (Config.programOrigin ≤ o.toNat ∧ o.toNat + bytes.length ≤ Config.memSize)) :
    hostOp (.load o bytes) s = .next (s, .boundaryViolation) := by
  simp only [hostOp, loadOp, if_neg (mt wellFormed_load_iff.mp h)]

/-! ### What an execution can do to memory -/

theorem State.push_mem {w : Word} (h : s.push w = .ok t) : t.mem = s.mem := by
  rcases State.push_cases h with ⟨-, he⟩ | ⟨_, he⟩
  · cases he
  · cases he; rfl

theorem State.popJump_mem (h : s.popJump = .ok t) : t.mem = s.mem := by
  rcases State.popJump_cases h with ⟨-, he⟩ | ⟨_, _, _, he⟩
  · cases he
  · cases he; rfl

/-- An execution that ends in `finish` leaves memory alone when the state it computed does. -/
theorem finish_mem {i : Instr} {r : Except ErrorKind State} (h : finish i s r = .next t)
    (hok : ∀ u, r = .ok u → u.mem = s.mem) : t.mem = s.mem := by
  rcases finish_cases h with hr | ⟨k, -, rfl⟩
  · exact hok t hr
  · rfl

/-- The memory after FX33 or FX55 is as before, when the store failed, or as a run of stores at I left it. -/
theorem finish_storeAtI_mem {i : Instr} {bytes : List Byte} (h : finish i s (storeAtI bytes s) = .next t) :
    t.mem = s.mem ∨ ∃ bs u, writeBytes s (effectiveAddr s 0) bs = .ok u ∧ t.mem = u.mem := by
  rcases finish_cases h with hr | ⟨k, -, rfl⟩
  · unfold storeAtI at hr
    split at hr
    · cases hr
    · next u hu => cases hr; exact .inr ⟨bytes, u, hu, rfl⟩
  · exact .inl rfl

/-- Memory after an execution is as before, or as a run of stores at I left it (FX33 and FX55 alone). -/
theorem exec_mem {i : Instr} (h : exec i s = .next t) :
    t.mem = s.mem ∨ ∃ bs u, writeBytes s (effectiveAddr s 0) bs = .ok u ∧ t.mem = u.mem := by
  cases i with
  | ldB | ldMemVx => exact finish_storeAtI_mem h
  | ret => exact .inl (finish_mem h fun u hu => State.popJump_mem hu)
  | call =>
    refine .inl (finish_mem h fun u hu => ?_)
    split at hu
    · cases hu
    · next p hp => cases hu; exact (State.jump_mem ..).trans (State.push_mem hp)
  | drw =>
    refine .inl (finish_mem h fun u hu => ?_)
    split at hu <;> cases hu
    rfl
  | skp | sknp =>
    refine .inl (finish_mem h fun u hu => ?_)
    split at hu <;> cases hu
    exact State.skipIf_mem ..
  | ldVxMem =>
    refine .inl (finish_mem h fun u hu => ?_)
    split at hu
    · cases hu
    · next bs _ =>
      cases hu
      obtain ⟨v, hv⟩ := State.setRegs_v_only bs s 0
      rw [hv]
      rfl
  | seImm | sneImm | seReg | sneReg => cases h; exact .inl (State.skipIf_mem ..)
  | cls | jp | jpV0 | ldVxK | ldImm | addImm | ldReg | orReg | andReg | xorReg | addReg | subReg | shr | subnReg | shl | rnd
  | ldI | addI | ldF | ldVxDt | ldDtVx | ldStVx => cases h; exact .inl rfl

/-! ### The glyph table (spec/20_memory.md R61, R64) -/

section glyphs

variable (hp : s.params.glyphWritePolicy ≠ .write) (ha : a < Config.glyphSize)
include hp ha

/-- Each store of a run lands outside the glyph table. -/
theorem writeBytes_glyph {o : Nat} {bytes : List Byte} (h : writeBytes s o bytes = .ok t) :
    t.params = s.params ∧ t.byteAt a = s.byteAt a := by
  refine writeBytes_induct (fun u => u.params = s.params ∧ u.byteAt a = s.byteAt a) ?_ h ⟨rfl, rfl⟩
  rintro u c v - hc ⟨hup, hua⟩
  have hc' : Config.glyphSize ≤ c := hc.resolve_right (hup ▸ hp)
  exact ⟨hup, (u.setByte_byteAt_other v (by omega)).trans hua⟩

theorem exec_glyph {i : Instr} (h : exec i s = .next t) : t.byteAt a = s.byteAt a := by
  have hparams := (executes_of_exec h).keys_params.2
  rcases exec_mem h with hm | ⟨bs, u, hu, hm⟩
  · exact State.byteAt_congr hparams hm a
  · obtain ⟨hup, hua⟩ := writeBytes_glyph hp ha hu
    exact (State.byteAt_congr (hparams.trans hup.symm) hm a).trans hua

theorem step_glyph (h : step s = .next t) : t.byteAt a = s.byteAt a := by
  rcases step_cases h with ⟨-, rfl⟩ | ⟨x, -, rfl⟩ | ⟨-, k, -, rfl⟩ | ⟨-, w, -, -, rfl⟩ | ⟨-, w, i, u, -, -, hu, rfl⟩
  · rfl
  · exact State.cycleTick_byteAt ..
  · rfl
  · rfl
  · have hua := exec_glyph hp ha hu
    rcases endCycle_cases u with ⟨-, he⟩ | ⟨-, he⟩ <;> rw [he]
    · exact hua
    · exact (State.cycleTick_byteAt ..).trans hua

end glyphs

/-- A load writes at or above 0x200, so the glyph table is out of its reach under every policy. -/
theorem loadOp_glyph {o : Word} {bytes : List Byte} {r : HostResult} (h : (t, r) = loadOp o bytes s)
    (ha : a < Config.glyphSize) : t.byteAt a = s.byteAt a := by
  rcases loadOp_cases h with ⟨ho, -, rfl, -⟩ | ⟨rfl, -⟩
  · exact setBytes_byteAt_other _ _ _ _ (.inl (ha.trans_le (le_trans (by decide) ho)))
  · rfl

theorem setKeyOp_byteAt (s : State) (c : Fin 16) (d : Bool) (n : Nat) : (setKeyOp c d s).byteAt n = s.byteAt n := by
  rcases setKeyOp_cases (s := s) c d with ⟨x, -, -, h⟩ | ⟨-, h⟩ <;> rw [h] <;> rfl

/-! ### The obligations -/

/-- Settles O20: the only writes to memory are stores, which land outside the table unless the policy is write, and loads, which
start at 0x200. -/
theorem glyphTableIsImmutable : Obligations.GlyphTableIsImmutable := by
  unfold Obligations.GlyphTableIsImmutable
  intro op s t r hp hop h a ha
  rcases hostOp_cases h with ⟨hr, -⟩ | ⟨o, bs, -, hl⟩ | ⟨-, hc, -⟩ | ⟨-, -, rfl⟩ | ⟨c, d, -, rfl⟩ | ⟨-, hf⟩ |
    ⟨-, rfl, -⟩ | ⟨-, rfl, -⟩
  · exact absurd hr hop
  · exact loadOp_glyph hl ha
  · exact step_glyph hp ha hc
  · exact State.tick_byteAt ..
  · exact setKeyOp_byteAt ..
  · cases hf; rfl
  · rfl
  · rfl

/-- Settles O26: the address check decides first, then the glyph policy; a performed write is `setByte` at the checked address. -/
theorem writeFollowsBothPolicies : Obligations.WriteFollowsBothPolicies := by
  unfold Obligations.WriteFollowsBothPolicies
  intro s a b v hwf
  refine ⟨fun ha hp => memWrite_of_resolve_error (resolve_reject ha hp), fun hab => ?_⟩
  have hr : resolve s.params.addrPolicy a = .ok b := by
    rcases hab with ⟨ha, rfl⟩ | ⟨ha, hp, rfl⟩
    · exact resolve_of_lt _ ha
    · exact resolve_wrap ha hp
  refine ⟨fun hb hp => memWrite_glyph_fault hr (Nat.lt_succ_of_le hb) hp,
    fun hb hp => memWrite_glyph_ignore hr (Nat.lt_succ_of_le hb) hp, fun hb => ?_⟩
  exact ⟨_, memWrite_performed hr hb, s.setByte_byteAt_self b v hwf, unchangedBut_setByte s b v,
    s.setByte_wf v (resolve_lt hr) hwf⟩

/-- Settles O27: the bounds of the statement are those the load checks, whatever MODE is, and a load that passes them copies its
bytes and touches no other component. -/
theorem loadCopiesItsBytesOrRefuses : Obligations.LoadCopiesItsBytesOrRefuses := by
  unfold Obligations.LoadCopiesItsBytesOrRefuses
  intro s origin bytes hwf
  refine ⟨fun ⟨ho, hlen⟩ => ?_, fun hout => ?_⟩
  · exact ⟨_, hostOp_load_success ho hlen, setBytes_byteAt bytes s origin.toNat hlen hwf,
      unchangedBut_setBytes s origin.toNat bytes⟩
  · exact hostOp_load_refused fun ⟨ho, hlen⟩ => hout.elim (Nat.not_lt.mpr ho) (Nat.not_lt.mpr hlen)

/-- Settles O25: `memRead` reads the byte at the address the check gives, or passes its error on. -/
theorem readFollowsTheAddressPolicy : Obligations.ReadFollowsTheAddressPolicy := by
  unfold Obligations.ReadFollowsTheAddressPolicy
  intro s a
  refine ⟨memRead_of_lt, fun ha hp => ?_, fun ha hp => ?_⟩
  · simp only [memRead, resolve_reject ha hp]
  · simp only [memRead, resolve_wrap ha hp]

end Sys2Proof.Machine

/-! ## The encoding family: the decoder and the encoder invert each other, and the decode table is their common domain

`encode` is a right inverse by reading back the fields of each format, and a left inverse because a word is put together again
from the fields the decoder reads. The rows of the decode table are then read as the words of the encoder. -/

namespace Sys2Proof

/-! ### Decoding what was encoded -/

/-- One case per format of spec/30_encoding.md R92: the fields read back are the operands. -/
theorem decodeWord_encode (i : Instr) : decodeWord (encode i) = .ok i := by
  cases i with
  | cls | ret => rfl
  | jp | call | ldI | jpV0 => simp [encode, decodeWord, fieldOp_formatFA, fieldNNN_formatFA]
  | seImm | sneImm | ldImm | addImm | rnd => simp [encode, decodeWord, fieldOp_formatFI, fieldX_formatFI, fieldNN_formatFI]
  | seReg | sneReg | drw =>
    simp [encode, decodeWord, fieldOp_formatFR, fieldX_formatFR, fieldY_formatFR, fieldN_formatFR]
  | ldReg | orReg | andReg | xorReg | addReg | subReg | shr | subnReg | shl =>
    simp [encode, decodeWord, decodeFamily8, fieldOp_formatFR, fieldX_formatFR, fieldY_formatFR, fieldN_formatFR]
  | skp | sknp =>
    simp [encode, formatFS, decodeWord, decodeFamilyE, fieldOp_formatFI, fieldX_formatFI, fieldNN_formatFI]
  | ldVxDt | ldVxK | ldDtVx | ldStVx | addI | ldF | ldB | ldMemVx | ldVxMem =>
    simp [encode, formatFS, decodeWord, decodeFamilyF, fieldOp_formatFI, fieldX_formatFI, fieldNN_formatFI]

/-! ### A word put together again from its fields -/

section fields

variable {w : Word} {op : Nat} (hop : (fieldOp w).val = op)
include hop

theorem formatFA_fields : formatFA op (fieldNNN w) = w := by
  have hlt := (fieldOp w).isLt
  apply BitVec.eq_of_toNat_eq
  rw [formatFA_toNat (hop ▸ hlt), fieldNNN_toNat, ← hop, fieldOp_val]
  omega

theorem formatFI_fields : formatFI op (fieldX w) (fieldNN w) = w := by
  have hlt := (fieldOp w).isLt
  apply BitVec.eq_of_toNat_eq
  rw [formatFI_toNat (hop ▸ hlt), fieldX_val, fieldNN_toNat, ← hop, fieldOp_val]
  omega

theorem formatFR_fields {n : Fin 16} (hn : (fieldN w).val = n.val) : formatFR op (fieldX w) (fieldY w) n = w := by
  have hlt := (fieldOp w).isLt
  apply BitVec.eq_of_toNat_eq
  rw [formatFR_toNat (hop ▸ hlt), fieldX_val, fieldY_val, ← hn, fieldN_val, ← hop, fieldOp_val]
  omega

theorem formatFS_fields {sub : Byte} (hsub : (fieldNN w).toNat = sub.toNat) : formatFS op (fieldX w) sub = w := by
  rw [← BitVec.eq_of_toNat_eq hsub]
  exact formatFI_fields hop

end fields

/-! ### Encoding what was decoded -/

section families

variable {w : Word} {i : Instr}

/-- The two words of family 0 are fixed by op and NNN. -/
theorem encode_of_decodeFamily0 (hop : (fieldOp w).val = 0x0) (h : decodeFamily0 w = .ok i) : encode i = w := by
  have hw := formatFA_fields hop
  unfold decodeFamily0 at h
  split at h
  case h_1 hnnn => cases h; rw [← hw, BitVec.eq_of_toNat_eq (y := 0x0E0#12) hnnn]; rfl
  case h_2 hnnn => cases h; rw [← hw, BitVec.eq_of_toNat_eq (y := 0x0EE#12) hnnn]; rfl
  case h_3 => cases h

theorem encode_of_decodeFamily8 (hop : (fieldOp w).val = 0x8) (h : decodeFamily8 w = .ok i) : encode i = w := by
  unfold decodeFamily8 at h
  split at h <;> cases h
  all_goals exact formatFR_fields hop ‹_›

theorem encode_of_decodeFamilyE (hop : (fieldOp w).val = 0xE) (h : decodeFamilyE w = .ok i) : encode i = w := by
  unfold decodeFamilyE at h
  split at h <;> cases h
  all_goals exact formatFS_fields hop ‹_›

theorem encode_of_decodeFamilyF (hop : (fieldOp w).val = 0xF) (h : decodeFamilyF w = .ok i) : encode i = w := by
  unfold decodeFamilyF at h
  split at h <;> cases h
  all_goals exact formatFS_fields hop ‹_›

/-- One case per value of op: the format of its family puts the word together again. -/
theorem encode_of_decodeWord (h : decodeWord w = .ok i) : encode i = w := by
  unfold decodeWord at h
  split at h
  case h_1 hop => exact encode_of_decodeFamily0 hop h
  case h_9 hop => exact encode_of_decodeFamily8 hop h
  case h_15 hop => exact encode_of_decodeFamilyE hop h
  case h_16 =>
    have hlt := (fieldOp w).isLt
    exact encode_of_decodeFamilyF (by simp only [imp_false] at *; omega) h
  case h_2 hop | h_3 hop | h_11 hop | h_12 hop => cases h; exact formatFA_fields hop
  case h_4 hop | h_5 hop | h_7 hop | h_8 hop | h_13 hop => cases h; exact formatFI_fields hop
  case h_14 hop => cases h; exact formatFR_fields hop rfl
  case h_6 hop | h_10 hop =>
    split at h
    · next hn => cases h; exact formatFR_fields hop (congrArg Fin.val hn)
    · cases h

/-- The encoder's words are those that decode. -/
theorem decodes_iff_encodes (w : Word) : (∃ i, decodeWord w = .ok i) ↔ ∃ i, encode i = w :=
  exists_congr fun i => ⟨encode_of_decodeWord, fun h => h ▸ decodeWord_encode i⟩

end families

/-! ### The decode table (spec/30_encoding.md R96) -/

/-- Every instruction's word is in the table. -/
theorem encode_wellFormed (i : Instr) : WellFormed.word (encode i) = true :=
  open Laws.LegalWord in
  i.casesOn cls ret jp call seImm sneImm seReg ldImm addImm ldReg orReg andReg xorReg addReg subReg shr subnReg shl sneReg
    ldI jpV0 rnd drw skp sknp ldVxDt ldVxK ldDtVx ldStVx addI ldF ldB ldMemVx ldVxMem

theorem wellFormed_word_iff (w : Word) : WellFormed.word w = true ↔ ∃ r ∈ decodeTable, w &&& r.mask = r.pattern := by
  simp [WellFormed.word, Row.accepts]

section rows

variable {w p : Word} {op : Nat}

/-! A word that a row matches is put together by the row's format: the mask fixes the fields by which the decoder selects the row
(spec/30_encoding.md R94, R95), and the others are free. -/

theorem fieldOp_of_F000 (h : w &&& 0xF000#16 = p) (hp : p.toNat = op * 4096) : (fieldOp w).val = op := by
  rw [← h, mask_F000] at hp
  rw [fieldOp_val]
  omega

theorem formatFA_of_row (h : w &&& 0xF000#16 = p) (hp : p.toNat = op * 4096) : formatFA op (fieldNNN w) = w :=
  formatFA_fields (fieldOp_of_F000 h hp)

theorem formatFI_of_row (h : w &&& 0xF000#16 = p) (hp : p.toNat = op * 4096) : formatFI op (fieldX w) (fieldNN w) = w :=
  formatFI_fields (fieldOp_of_F000 h hp)

/-- Format FD: N is an operand, so no row fixes it. -/
theorem formatFD_of_row (h : w &&& 0xF000#16 = p) (hp : p.toNat = op * 4096) :
    formatFR op (fieldX w) (fieldY w) (fieldN w) = w :=
  formatFR_fields (fieldOp_of_F000 h hp) rfl

theorem formatFR_of_row {n : Fin 16} (h : w &&& 0xF00F#16 = p) (hp : p.toNat = op * 4096 + n.val) :
    formatFR op (fieldX w) (fieldY w) n = w := by
  rw [← h, mask_F00F] at hp
  exact formatFR_fields (by rw [fieldOp_val]; omega) (by rw [fieldN_val]; omega)

theorem formatFS_of_row {sub : Byte} (h : w &&& 0xF0FF#16 = p) (hp : p.toNat = op * 4096 + sub.toNat) :
    formatFS op (fieldX w) sub = w := by
  have := sub.isLt
  rw [← h, mask_F0FF] at hp
  exact formatFS_fields (by rw [fieldOp_val]; omega) (by rw [fieldNN_toNat]; omega)

theorem eq_of_FFFF (h : w &&& 0xFFFF#16 = p) : p = w :=
  h.symm.trans (BitVec.eq_of_toNat_eq (mask_FFFF w))

/-- Row by row, the instruction whose words the row matches. -/
theorem encodes_of_row : ∀ r ∈ decodeTable, w &&& r.mask = r.pattern → ∃ i, encode i = w := by
  intro r hr h
  fin_cases hr
  exacts [⟨.cls, eq_of_FFFF h⟩, ⟨.ret, eq_of_FFFF h⟩, ⟨.jp _, formatFA_of_row h rfl⟩, ⟨.call _, formatFA_of_row h rfl⟩,
    ⟨.seImm _ _, formatFI_of_row h rfl⟩, ⟨.sneImm _ _, formatFI_of_row h rfl⟩, ⟨.seReg _ _, formatFR_of_row h rfl⟩,
    ⟨.ldImm _ _, formatFI_of_row h rfl⟩, ⟨.addImm _ _, formatFI_of_row h rfl⟩, ⟨.ldReg _ _, formatFR_of_row h rfl⟩,
    ⟨.orReg _ _, formatFR_of_row h rfl⟩, ⟨.andReg _ _, formatFR_of_row h rfl⟩, ⟨.xorReg _ _, formatFR_of_row h rfl⟩,
    ⟨.addReg _ _, formatFR_of_row h rfl⟩, ⟨.subReg _ _, formatFR_of_row h rfl⟩, ⟨.shr _ _, formatFR_of_row h rfl⟩,
    ⟨.subnReg _ _, formatFR_of_row h rfl⟩, ⟨.shl _ _, formatFR_of_row h rfl⟩, ⟨.sneReg _ _, formatFR_of_row h rfl⟩,
    ⟨.ldI _, formatFA_of_row h rfl⟩, ⟨.jpV0 _, formatFA_of_row h rfl⟩, ⟨.rnd _ _, formatFI_of_row h rfl⟩,
    ⟨.drw _ _ _, formatFD_of_row h rfl⟩, ⟨.skp _, formatFS_of_row h rfl⟩, ⟨.sknp _, formatFS_of_row h rfl⟩,
    ⟨.ldVxDt _, formatFS_of_row h rfl⟩, ⟨.ldVxK _, formatFS_of_row h rfl⟩, ⟨.ldDtVx _, formatFS_of_row h rfl⟩,
    ⟨.ldStVx _, formatFS_of_row h rfl⟩, ⟨.addI _, formatFS_of_row h rfl⟩, ⟨.ldF _, formatFS_of_row h rfl⟩,
    ⟨.ldB _, formatFS_of_row h rfl⟩, ⟨.ldMemVx _, formatFS_of_row h rfl⟩, ⟨.ldVxMem _, formatFS_of_row h rfl⟩]

end rows

/-- A word decodes exactly when a row of the table matches it. -/
theorem decodes_iff_row (w : Word) : (∃ i, decodeWord w = .ok i) ↔ ∃ r ∈ decodeTable, w &&& r.mask = r.pattern := by
  rw [decodes_iff_encodes]
  constructor
  · rintro ⟨i, rfl⟩
    exact (wellFormed_word_iff _).mp (encode_wellFormed i)
  · rintro ⟨r, hr, h⟩
    exact encodes_of_row r hr h

theorem decodeWord_error_of_no_row {w : Word} (h : ∀ r ∈ decodeTable, w &&& r.mask ≠ r.pattern) :
    ∃ e, decodeWord w = .error e := by
  cases hd : decodeWord w with
  | error e => exact ⟨e, rfl⟩
  | ok i =>
    obtain ⟨r, hr, hw⟩ := (decodes_iff_row w).mp ⟨i, hd⟩
    exact absurd hw (h r hr)

/-! ### Two rows never match one word -/

/-- Two rows that match one word agree on every bit that both masks fix. -/
theorem patterns_agree_of_common_word {w : Word} {r r' : Row} (h : w &&& r.mask = r.pattern)
    (h' : w &&& r'.mask = r'.pattern) : r.pattern &&& r'.mask = r'.pattern &&& r.mask := by
  rw [← h, ← h', BitVec.and_assoc, BitVec.and_assoc, BitVec.and_comm r.mask]

/-- Any two rows of the table disagree on some bit that both masks fix. -/
theorem decodeTable_patterns_differ :
    ∀ j k : Fin decodeTable.length, j ≠ k →
      decodeTable[j].pattern &&& decodeTable[k].mask ≠ decodeTable[k].pattern &&& decodeTable[j].mask := by
  decide

/-! ### A word that is no instruction -/

namespace Machine

theorem step_of_decode_error {s : State} {w : Word} {e : Reject} (hm : s.mode = .running) (hf : fetch s = .ok w)
    (hd : decodeWord w = .error e) : step s = .next (failDecode s w) := by
  simp only [step, hm, hf, hd]

/-- Taking an error writes MODE and ERR alone (spec/40_engine.md R128). -/
theorem unchangedBut_abort (s : State) (k : ErrorKind) (word : Option Word) :
    UnchangedBut [.mode, .err] s (s.abort k word) := by
  intro c hc
  cases c with
  | mode | err => simp at hc
  | _ => rfl

end Machine

/-! ### The obligations -/

/-- Settles O1: the fields of each format read back as the operands. -/
theorem decodeOfEncodeIsTheInstruction : Obligations.DecodeOfEncodeIsTheInstruction := decodeWord_encode

/-- Settles O2: the fields the decoder reads make up the whole word. -/
theorem encodeOfDecodeIsTheWord : Obligations.EncodeOfDecodeIsTheWord := fun _ _ => encode_of_decodeWord

/-- Settles O3: both sides say that the word is the encoding of some instruction. -/
theorem decoderAcceptsExactlyTheTable : Obligations.DecoderAcceptsExactlyTheTable := decodes_iff_row

/-- Settles O4: two different rows disagree on a bit that both masks fix, and a common word would decide that bit. -/
theorem noWordMatchesTwoRows : Obligations.NoWordMatchesTwoRows := by
  unfold Obligations.NoWordMatchesTwoRows
  intro w j k hj hk hwj hwk
  by_contra hjk
  exact decodeTable_patterns_differ ⟨j, hj⟩ ⟨k, hk⟩ (by simpa using hjk) (patterns_agree_of_common_word hwj hwk)

/-- Settles O9: the word does not decode, so the step takes UnsupportedInstruction. -/
theorem unsupportedWordHalts : Obligations.UnsupportedWordHalts := by
  unfold Obligations.UnsupportedWordHalts
  intro s w hm hf hno
  obtain ⟨e, hd⟩ := decodeWord_error_of_no_row hno
  exact ⟨_, Machine.step_of_decode_error hm hf hd, rfl, rfl, Machine.unchangedBut_abort s _ _⟩

/-- Settles O5: the decoder computes each listed answer. -/
theorem specWordsDecodeAsListed : Obligations.SpecWordsDecodeAsListed := by
  unfold Obligations.SpecWordsDecodeAsListed
  exact ⟨rfl, rfl, rfl, rfl, rfl, rfl, rfl, rfl, rfl, rfl⟩

end Sys2Proof

/-! ## The engine family: the cycle, the engine's modes, and the host operations beside it

One frame rule per update of the state and one equation per way through a cycle; a placed word, a waiting engine, a completed and a
failed cycle are put together from them. -/

namespace Sys2Proof.Machine

variable {s t u : State}

/-! ### Frames -/

theorem Component.same_trans {c : Component} (h : c.same s t) (h' : c.same t u) : c.same s u := by
  cases c <;> exact Eq.trans h' h

namespace UnchangedBut

variable {l l' : List Component}

theorem refl (l : List Component) (s : State) : UnchangedBut l s s := by
  intro c _
  cases c <;> rfl

/-- What two updates touch together, each of them touches. -/
theorem trans (h : UnchangedBut l s t) (h' : UnchangedBut l' t u) : UnchangedBut (l ++ l') s u := fun c hc =>
  Component.same_trans (h c fun hl => hc (List.mem_append_left l' hl)) (h' c fun hl => hc (List.mem_append_right l hl))

theorem mono (h : UnchangedBut l s t) (hl : l ⊆ l') : UnchangedBut l' s t := fun c hc => h c fun hm => hc (hl hm)

/-- A component that was written with the value it held need not be named. -/
theorem of_cons {c : Component} (h : UnchangedBut (c :: l) s t) (hc : c.same s t) : UnchangedBut l s t := by
  intro d hd
  by_cases hdc : d = c
  · exact hdc ▸ hc
  · exact h d (by simp [hdc, hd])

end UnchangedBut

theorem unchangedBut_setMode (s : State) (m : Mode) : UnchangedBut [.mode] s (s.setMode m) := by
  intro c hc
  cases c with
  | mode => simp at hc
  | _ => rfl

theorem unchangedBut_jump (s : State) (a : Word) : UnchangedBut [.pc] s (s.jump a) := by
  intro c hc
  cases c with
  | pc => simp at hc
  | _ => rfl

theorem unchangedBut_setReg (s : State) (x : Reg) (b : Byte) : UnchangedBut [.v x] s (s.setReg x b) := by
  intro c hc
  cases c with
  | v y => exact s.setReg_reg_other b fun hy => hc (by simp [hy])
  | _ => rfl

theorem unchangedBut_setKeyFlag (s : State) (k : Fin 16) (d : Bool) : UnchangedBut [.keys] s (s.setKeyFlag k d) := by
  intro c hc
  cases c with
  | keys => simp at hc
  | _ => rfl

theorem unchangedBut_tick (s : State) : UnchangedBut [.dt, .st] s s.tick := by
  intro c hc
  cases c with
  | dt | st => simp at hc
  | _ => rfl

/-! ### The tick (spec/40_engine.md R127) -/

theorem countDown_toNat (b : Byte) : (State.countDown b).toNat = b.toNat - 1 := by
  unfold State.countDown
  split
  · next hb => subst hb; rfl
  · next hb => exact BitVec.toNat_sub_of_le (by bv_omega)

theorem cycleTick_perCycle (h : s.params.timerCoupling = .perCycle) : s.cycleTick = s.tick := by
  simp only [State.cycleTick, h]

theorem cycleTick_decoupled (h : s.params.timerCoupling = .decoupled) : s.cycleTick = s := by
  simp only [State.cycleTick, h]

theorem unchangedBut_cycleTick (s : State) : UnchangedBut [.dt, .st] s s.cycleTick := by
  unfold State.cycleTick
  split
  · exact unchangedBut_tick s
  · exact .refl _ s

/-- Under per_cycle both timers lose 1 if nonzero. -/
theorem cycleTick_timers (h : s.params.timerCoupling = .perCycle) :
    s.cycleTick.dt.toNat = s.dt.toNat - 1 ∧ s.cycleTick.st.toNat = s.st.toNat - 1 := by
  rw [cycleTick_perCycle h]
  exact ⟨countDown_toNat s.dt, countDown_toNat s.st⟩

theorem endCycle_of_not_halted (h : u.mode ≠ .halted) : endCycle u = u.cycleTick := if_neg h

theorem endCycle_mode (u : State) : (endCycle u).mode = u.mode := by
  rcases endCycle_cases u with ⟨-, h⟩ | ⟨-, h⟩ <;> simp [h]

/-! ### Fetch (spec/40_engine.md R124) -/

theorem fetch_of_memRead {hi lo : Byte} (hhi : memRead s s.pc.toNat = .ok hi) (hlo : memRead s (s.pc.toNat + 1) = .ok lo) :
    fetch s = .ok (wordOfBytes hi lo) := by
  simp only [fetch, hhi, hlo]

/-- Below 4096, and everywhere under wrap, a read gives the byte at the address modulo 4096. -/
theorem memRead_mod {a : Nat} (h : s.params.addrPolicy = .wrap ∨ a < Config.memSize) :
    memRead s a = .ok (s.byteAt (a % Config.memSize)) := by
  by_cases ha : a < Config.memSize
  · rw [memRead_of_lt ha, Nat.mod_eq_of_lt ha]
  · simp only [memRead, resolve_wrap (Nat.not_lt.mp ha) (h.resolve_right ha)]

/-- Where PC + 1 lies in memory, and everywhere under wrap, a fetch gives the bytes at PC and PC + 1 modulo 4096. -/
theorem fetch_mod (h : s.params.addrPolicy = .wrap ∨ s.pc.toNat + 1 < Config.memSize) :
    fetch s = .ok (wordOfBytes (s.byteAt (s.pc.toNat % Config.memSize)) (s.byteAt ((s.pc.toNat + 1) % Config.memSize))) :=
  fetch_of_memRead (memRead_mod (h.imp_right Nat.lt_of_succ_lt)) (memRead_mod h)

theorem fetch_reject (hp : s.params.addrPolicy = .reject) (ha : Config.memSize ≤ s.pc.toNat + 1) :
    fetch s = .error .addressViolation := by
  rcases fetch_cases (s := s) rfl with ⟨hi, lo, -, -, hok⟩ | ⟨-, -, he⟩
  · have := fetch_ok_pc hok hp
    omega
  · exact he

/-! ### Each way through a cycle (spec/40_engine.md R121 to R126) -/

theorem step_of_halted (hm : s.mode = .halted) : step s = .next s := by
  simp only [step, hm]

theorem step_of_awaitingKey {x : Reg} (hm : s.mode = .awaitingKey x) : step s = .next s.cycleTick := by
  simp only [step, hm, waitCycle]

theorem step_of_fetch_error {k : ErrorKind} (hm : s.mode = .running) (hf : fetch s = .error k) :
    step s = .next (s.abort k none) := by
  simp only [step, hm, hf, failFetch]

theorem step_of_exec {w : Word} {i : Instr} (hm : s.mode = .running) (hf : fetch s = .ok w) (hd : decodeWord w = .ok i)
    (he : exec i s = .next u) : step s = .next (endCycle u) := by
  simp only [step, hm, hf, hd, he]

/-- Every instruction answers a next state; those that can fail take their error in `finish`. -/
theorem exec_next (i : Instr) (s : State) : ∃ t, exec i s = .next t := by
  cases i with
  | ret | call | drw | skp | sknp | ldB | ldMemVx | ldVxMem => exact finish_next ..
  | _ => exact ⟨_, rfl⟩

/-! ### The result of a cycle (spec/40_engine.md R121) -/

theorem hostOp_cycle (h : step s = .next t) : hostOp .cycle s = .next (t, .cycle (cycleResult t)) := by
  simp only [hostOp, h]

theorem cycleResult_running (h : t.mode = .running) : cycleResult t = .ok := by
  simp only [cycleResult, h]

theorem cycleResult_awaitingKey {x : Reg} (h : t.mode = .awaitingKey x) : cycleResult t = .awaitingKey := by
  simp only [cycleResult, h]

theorem cycleResult_halted {e : ErrorRecord} (h : t.mode = .halted) (he : t.err = some e) :
    cycleResult t = .err (some e.kind) := by
  simp only [cycleResult, h, he, Option.map_some]

/-! ### A failed cycle (spec/40_engine.md R128, R129) -/

/-- Of the outcomes of an execution only an error, taken, halts. -/
theorem Executes.aborts_of_halted {i : Instr} (h : Executes s i t) (hm : s.mode ≠ .halted) (ht : t.mode = .halted) :
    ∃ k, t = s.abort k (some (encode i)) := by
  cases h with
  | aborts i k => exact ⟨k, rfl⟩
  | waits x => simp at ht
  | proceeds i skips => exact absurd (by simpa using ht) hm
  | clears | paints | jumps | jumpsIndexed | calls | returns => exact absurd ht hm

/-- A Running cycle that halts takes one error, with the word it fetched. -/
theorem step_aborts (hm : s.mode = .running) (h : step s = .next t) (ht : t.mode = .halted) :
    ∃ k w, t = s.abort k w ∧ ((∃ v, fetch s = .ok v ∧ w = some v) ∨ (fetch s = .error k ∧ w = none)) := by
  rcases step_cases h with ⟨hm', -⟩ | ⟨x, hm', -⟩ | ⟨-, k, hf, rfl⟩ | ⟨-, w, hf, -, rfl⟩ | ⟨-, w, i, u, hf, hd, hu, rfl⟩
  · simp [hm] at hm'
  · simp [hm] at hm'
  · exact ⟨k, none, rfl, .inr ⟨hf, rfl⟩⟩
  · exact ⟨_, some w, rfl, .inl ⟨w, hf, rfl⟩⟩
  · have hhalt : u.mode = .halted := (endCycle_mode u).symm.trans ht
    obtain ⟨k, rfl⟩ := (executes_of_exec hu).aborts_of_halted (by simp [hm]) hhalt
    exact ⟨k, some w, by rw [encode_of_decodeWord hd]; rfl, .inl ⟨w, hf, rfl⟩⟩

/-! ### Placing a word (log entry 8) -/

theorem fetchablePc_of_fetchable (h : s.params.addrPolicy = .wrap ∨ s.pc.toNat + 1 < Config.memSize) :
    fetchablePc s = s.pc := if_pos h

theorem fetchablePc_of_unfetchable (hp : s.params.addrPolicy = .reject) (ha : Config.memSize ≤ s.pc.toNat + 1) :
    fetchablePc s = 0x200 := by
  rw [fetchablePc, if_neg (by simp [hp, Nat.not_lt.mpr ha])]
  rfl

/-- A word can be fetched at the PC that placing uses. -/
theorem fetchablePc_fetchable (s : State) :
    s.params.addrPolicy = .wrap ∨ (fetchablePc s).toNat + 1 < Config.memSize := by
  unfold fetchablePc
  split
  · assumption
  · exact .inr (by decide)

theorem placeWord_pc (s : State) (w : Word) : (placeWord s w).pc = fetchablePc s := rfl
theorem placeWord_mode (s : State) (w : Word) : (placeWord s w).mode = .running := rfl

/-- Two bytes written at different addresses of memory both read back. -/
theorem setByte_setByte_byteAt (hwf : Memory.wf s.params.glyphTable s.mem = true) {a a' : Nat} (b b' : Byte)
    (ha : a < Config.memSize) (hne : a ≠ a') :
    ((s.setByte a b).setByte a' b').byteAt a = b ∧ ((s.setByte a b).setByte a' b').byteAt a' = b' := by
  constructor
  · rw [State.setByte_byteAt_other _ _ hne, s.setByte_byteAt_self a b hwf]
  · exact State.setByte_byteAt_self _ a' b' (s.setByte_wf b ha hwf)

/-- The placed word is the one a fetch gives: its two addresses differ also where PC + 1 wraps. -/
theorem fetch_placeWord (hwf : Memory.wf s.params.glyphTable s.mem = true) (w : Word) : fetch (placeWord s w) = .ok w := by
  obtain ⟨hhi, hlo⟩ := setByte_setByte_byteAt (s := (s.jump (fetchablePc s)).setMode .running) hwf (highByte w) (lowByte w)
    (Nat.mod_lt (fetchablePc s).toNat (by decide))
    (show (fetchablePc s).toNat % Config.memSize ≠ ((fetchablePc s).toNat + 1) % Config.memSize by
      rw [show Config.memSize = 4096 from rfl]; omega)
  rw [fetch_mod (fetchablePc_fetchable s)]
  exact congrArg Except.ok ((congrArg₂ wordOfBytes hhi hlo).trans (wordOfBytes_bytes w))

theorem unchangedBut_placeWord (s : State) (w : Word) :
    UnchangedBut [.pc, .mode, .mem ((fetchablePc s).toNat % Config.memSize),
      .mem (((fetchablePc s).toNat + 1) % Config.memSize)] s (placeWord s w) :=
  (((unchangedBut_jump s _).trans (unchangedBut_setMode _ _)).trans (unchangedBut_setByte _ _ _)).trans
    (unchangedBut_setByte _ _ _)

/-! ### Host operations: what they leave of MODE and ERR -/

theorem loadOp_mode_err {o : Word} {bs : List Byte} {r : HostResult} (h : (t, r) = loadOp o bs s) :
    t.mode = s.mode ∧ t.err = s.err := by
  rcases loadOp_cases h with ⟨-, -, rfl, -⟩ | ⟨rfl, -⟩
  · obtain ⟨m, hm⟩ := setBytes_mem_only bs s o.toNat
    rw [hm]
    exact ⟨rfl, rfl⟩
  · exact ⟨rfl, rfl⟩

/-- Where a cycle leaves MODE and ERR alone, every operation does, but reset and a press that ends a wait. -/
theorem hostOp_mode_err {op : HostOp} {r : HostResult} (h : hostOp op s = .next (t, r)) (hreset : op ≠ .reset)
    (hcycle : ∀ t, step s = .next t → t.mode = s.mode ∧ t.err = s.err)
    (hpress : ∀ x, s.mode = .awaitingKey x → ∀ c, op ≠ .setKey c true) : t.mode = s.mode ∧ t.err = s.err := by
  rcases hostOp_cases h with ⟨hr, -⟩ | ⟨o, bs, -, hl⟩ | ⟨-, hc, -⟩ | ⟨-, -, rfl⟩ | ⟨c, d, rfl, rfl⟩ | ⟨-, hf⟩ |
    ⟨-, rfl, -⟩ | ⟨-, rfl, -⟩
  · exact absurd hr hreset
  · exact loadOp_mode_err hl
  · exact hcycle t hc
  · exact ⟨rfl, rfl⟩
  · rcases setKeyOp_cases (s := s) c d with ⟨x, rfl, hm, -⟩ | ⟨-, he⟩
    · exact absurd rfl (hpress x hm c)
    · rw [he]; exact ⟨rfl, rfl⟩
  · cases hf; exact ⟨rfl, rfl⟩
  · exact ⟨rfl, rfl⟩
  · exact ⟨rfl, rfl⟩

/-! ### The end of a wait (spec/45_input.md R284) -/

theorem completeWait_reg (s : State) (x : Reg) (code : Fin 16) : ((completeWait s x code).reg x).toNat = code.val := by
  have := code.isLt
  simp only [completeWait, State.setMode_reg, State.next_reg, State.setReg_reg_self, BitVec.toNat_ofNat]
  omega

theorem unchangedBut_completeWait (s : State) (x : Reg) (code : Fin 16) :
    UnchangedBut [.v x, .pc, .mode] s (completeWait s x code) :=
  ((unchangedBut_setReg s x _).trans (unchangedBut_jump _ _)).trans (unchangedBut_setMode _ _)

/-- In every MODE a key event writes the flag of its key and no other. -/
theorem setKeyOp_key (c k : Fin 16) (d : Bool) : (setKeyOp c d s).key k = if k = c then d else s.key k := by
  rcases setKeyOp_cases (s := s) c d with ⟨x, rfl, -, h⟩ | ⟨-, h⟩ <;> rw [h]
  · exact s.setKeyFlag_key c k true
  · exact s.setKeyFlag_key c k d

/-! ### The obligations -/

/-- Settles O8: placing writes the two bytes at a PC where a word can be fetched, and that PC is the old one unless reject
forbids it. -/
theorem placedWordIsFetchedNext : Obligations.PlacedWordIsFetchedNext := by
  unfold Obligations.PlacedWordIsFetchedNext
  intro s w hwf hw
  have hword : tableWord 16 w = BitVec.ofNat 16 w := congrArg (BitVec.ofNat 16) (Nat.mod_eq_of_lt hw)
  have hframe := unchangedBut_placeWord s (tableWord 16 w)
  refine ⟨hword ▸ fetch_placeWord hwf _, placeWord_mode s _, fun h => ?_, fun hp ha => ?_⟩
  · have hpc := fetchablePc_of_fetchable h
    rw [hpc] at hframe
    exact hframe.of_cons ((placeWord_pc s _).trans hpc)
  · have hpc := fetchablePc_of_unfetchable hp (Nat.succ_le_succ ha)
    rw [hpc] at hframe
    exact ⟨(placeWord_pc s _).trans hpc, hframe.mono (by decide)⟩

/-- Settles O10: a Halted cycle is the identity, and no other operation but reset writes MODE or ERR of a Halted engine. -/
theorem haltedUntilReset : Obligations.HaltedUntilReset := by
  unfold Obligations.HaltedUntilReset
  intro s e hm he
  have hstep := step_of_halted hm
  refine ⟨cycleResult_halted hm he ▸ hostOp_cycle hstep, fun op t r h hop => ?_, ⟨_, rfl, rfl, rfl⟩⟩
  rw [← hm, ← he]
  refine hostOp_mode_err h hop (fun u hu => ?_) (by simp [hm])
  cases hstep.symm.trans hu
  exact ⟨rfl, rfl⟩

/-- Settles O11: a waiting cycle is the tick, and only a press or reset writes MODE of a waiting engine. -/
theorem waitingCycleOnlyTicks : Obligations.WaitingCycleOnlyTicks := by
  unfold Obligations.WaitingCycleOnlyTicks
  intro s x hm
  have hstep := step_of_awaitingKey hm
  have hmode : s.cycleTick.mode = .awaitingKey x := s.cycleTick_mode.trans hm
  refine ⟨⟨_, cycleResult_awaitingKey hmode ▸ hostOp_cycle hstep, unchangedBut_cycleTick s, cycleTick_timers,
    cycleTick_decoupled⟩, fun op t r h hop hkey => ?_⟩
  rw [← hm]
  refine (hostOp_mode_err h hop (fun u hu => ?_) fun _ _ => hkey).1
  cases hstep.symm.trans hu
  exact ⟨s.cycleTick_mode, s.cycleTick_err⟩

/-- Settles O12: in both cases the cycle ends with the tick on `u`, which keeps MODE, and `u` has the parameters of `s`. -/
theorem completedCycleTicksBothTimers : Obligations.CompletedCycleTicksBothTimers := by
  unfold Obligations.CompletedCycleTicksBothTimers
  intro s u h
  have hstep : step s = .next u.cycleTick ∧ u.params = s.params := by
    rcases h with ⟨hm, hu, w, i, hf, hd, he⟩ | ⟨⟨x, hm⟩, rfl⟩
    · exact ⟨endCycle_of_not_halted hu ▸ step_of_exec hm hf hd he, (executes_of_exec he).keys_params.2⟩
    · exact ⟨step_of_awaitingKey hm, rfl⟩
  obtain ⟨hstep, hparams⟩ := hstep
  rw [← hparams]
  exact ⟨_, hstep, unchangedBut_cycleTick u,
    fun hm => cycleResult_running (u.cycleTick_mode.trans hm) ▸ hostOp_cycle hstep,
    fun x hm => cycleResult_awaitingKey (u.cycleTick_mode.trans hm) ▸ hostOp_cycle hstep,
    cycleTick_timers, cycleTick_decoupled⟩

/-- Settles O13: a Running cycle halts only by taking an error, which records the word the fetch gave. -/
theorem failedCycleChangesOnlyModeAndErr : Obligations.FailedCycleChangesOnlyModeAndErr := by
  unfold Obligations.FailedCycleChangesOnlyModeAndErr
  intro s t hm h ht
  obtain ⟨k, w, rfl, hw⟩ := step_aborts hm h ht
  refine ⟨unchangedBut_abort s k w, k, w, rfl, hostOp_cycle h, fun v hv => ?_, fun e he => ?_⟩
  · rcases hw with ⟨v', hf, rfl⟩ | ⟨hf, -⟩ <;> cases hf.symm.trans hv
    rfl
  · rcases hw with ⟨v', hf, -⟩ | ⟨-, rfl⟩
    · cases hf.symm.trans he
    · rfl

/-- Settles O14: fetch, decoding and execution each give a value or an error, and each error is taken. -/
theorem everyCycleAnswersNext : Obligations.EveryCycleAnswersNext := by
  unfold Obligations.EveryCycleAnswersNext
  intro s
  cases hm : s.mode with
  | halted => exact ⟨_, step_of_halted hm⟩
  | awaitingKey x => exact ⟨_, step_of_awaitingKey hm⟩
  | running =>
    cases hf : fetch s with
    | error k => exact ⟨_, step_of_fetch_error hm hf⟩
    | ok w =>
      cases hd : decodeWord w with
      | error e => exact ⟨_, step_of_decode_error hm hf hd⟩
      | ok i =>
        obtain ⟨u, he⟩ := exec_next i s
        exact ⟨_, step_of_exec hm hf hd he⟩

/-- Settles O28: a press while waiting is the flag write followed by the completion of the wait; any other event is the flag
write alone. -/
theorem keyEventSetsFlagAndEndsWait : Obligations.KeyEventSetsFlagAndEndsWait := by
  unfold Obligations.KeyEventSetsFlagAndEndsWait
  intro s code pressed
  refine ⟨_, rfl, by simp [setKeyOp_key], fun k hk => by simp [setKeyOp_key, hk], ?_⟩
  rcases setKeyOp_cases (s := s) code pressed with ⟨x, rfl, hm, h⟩ | ⟨hno, h⟩ <;> rw [h]
  · refine ⟨fun y _ hy => ?_, fun hno => ?_⟩
    · cases hm.symm.trans hy
      exact ⟨completeWait_reg .., rfl, rfl, (unchangedBut_setKeyFlag s code true).trans (unchangedBut_completeWait _ x code)⟩
    · exact absurd hm (hno.resolve_left (by simp) x)
  · refine ⟨fun y hp hy => ?_, fun _ => unchangedBut_setKeyFlag s code pressed⟩
    exact absurd hy (hno.resolve_left (by simp [hp]) y)

/-- Settles O6: both reads of a fetch pass the address check, or the second one fails it under reject. -/
theorem fetchIsBigEndianOrFails : Obligations.FetchIsBigEndianOrFails := by
  unfold Obligations.FetchIsBigEndianOrFails
  intro s
  refine ⟨fun h => ⟨_, fetch_of_lt h, wordOfBytes_toNat _ _⟩, fun hp ha => ?_,
    fun hp => ⟨_, fetch_mod (.inl hp), wordOfBytes_toNat _ _⟩⟩
  have hf := fetch_reject hp (Nat.succ_le_succ ha)
  exact ⟨hf, fun hm => ⟨_, step_of_fetch_error hm hf, rfl, rfl, unchangedBut_abort s _ none⟩⟩

/-- Settles O7: the two bytes are the fetched word, which decodes and executes as assumed. -/
theorem stepRunsTheDecodedInstruction : Obligations.StepRunsTheDecodedInstruction := by
  unfold Obligations.StepRunsTheDecodedInstruction
  intro s t hi lo i hm hhi hlo hd he
  exact step_of_exec hm (fetch_of_memRead hhi hlo) hd he

/-- Settles O29: clearing FB_CHANGED is the only write of a read accessor. -/
theorem readAccessorsReturnTheState : Obligations.ReadAccessorsReturnTheState := by
  unfold Obligations.ReadAccessorsReturnTheState
  intro s
  refine ⟨⟨_, rfl, rfl, fun c hc => ?_⟩, rfl, rfl⟩
  cases c with
  | fbChanged => simp at hc
  | _ => rfl

/-- Settles O30: the coupling alone decides, and the operation is the tick. -/
theorem tickTimersOnlyWhenDecoupled : Obligations.TickTimersOnlyWhenDecoupled := by
  unfold Obligations.TickTimersOnlyWhenDecoupled
  intro s
  refine ⟨fun h => ⟨s.tick, ?_, countDown_toNat s.dt, countDown_toNat s.st, unchangedBut_tick s⟩, fun h => ?_⟩
  · simp only [hostOp, h]
  · simp only [hostOp, h]

end Sys2Proof.Machine

/-! ## The arithmetic family: set, copy, arithmetic, shifts and the random byte

Every instruction of the family writes one register, or a result and then its flag, and goes to the next instruction; what is left
for each is the number its result and its flag stand for. -/

namespace Sys2Proof.Machine

variable {s : State} {i : Instr} {x y : Reg}

/-! ### Words of format FR (spec/30_encoding.md R92) -/

/-- The sub-opcode in the low nibble is part of the constant that an opcode pattern such as 8XY4 begins with. -/
theorem formatFR_toNat_pattern {op : Nat} (h : op < 16) (x y : Reg) (n : Fin 16) :
    (formatFR op x y n).toNat = op * 0x1000 + n.val + x.val * 0x100 + y.val * 0x10 := by
  rw [formatFR_toNat h]
  omega

/-! ### The two ways to complete (spec/41_arithmetic.md R160) -/

theorem unchangedBut_countDraw (s : State) : UnchangedBut [.draws] s s.countDraw := by
  intro c hc
  cases c with
  | draws => simp at hc
  | _ => rfl

theorem unchangedBut_setResult (s : State) (x : Reg) (b : Byte) (c : Bool) :
    UnchangedBut [.v x, .v VF] s (s.setResult x b c) :=
  (unchangedBut_setReg s x b).trans (unchangedBut_setReg _ VF (flagByte c))

/-- An instruction that writes a register and no flag, and goes to the next one. -/
theorem completes_of_setReg {b : Byte} (h : exec i s = .next (s.setReg x b).next) :
    ∃ t, exec i s = .next t ∧ t.reg x = b ∧ t.pc = s.pc + 2 ∧ UnchangedBut [.v x, .pc] s t :=
  ⟨_, h, s.setReg_reg_self x b, rfl, (unchangedBut_setReg s x b).trans (unchangedBut_jump _ _)⟩

theorem flagByte_toNat (c : Bool) : (flagByte c).toNat = c.toNat := by
  cases c <;> rfl

/-- An instruction that writes a result standing for `r` and then a flag standing for `f`, and goes to the next one: the flag wins
when X = 0xF. -/
theorem completes_of_setResult {b : Byte} {c : Bool} {r f : Nat} (h : exec i s = .next (s.setResult x b c).next)
    (hr : b.toNat = r) (hf : c.toNat = f) :
    ∃ t, exec i s = .next t ∧ (x ≠ VF → (t.reg x).toNat = r) ∧ (t.reg VF).toNat = f ∧ t.pc = s.pc + 2 ∧
      UnchangedBut [.v x, .v VF, .pc] s t := by
  refine ⟨_, h, fun hx => ?_, ?_, rfl, (unchangedBut_setResult s x b c).trans (unchangedBut_jump _ _)⟩
  · simp [State.setResult_reg, hx, hr]
  · simp [State.setResult_reg, flagByte_toNat, hf]

/-! ### Results and flags as numbers -/

theorem sub_toNat_modulo (a b : Byte) : (a - b).toNat = (256 + a.toNat - b.toNat) % 256 := by
  have := b.isLt
  rw [BitVec.toNat_sub]
  omega

theorem shiftRight_one_toNat (a : Byte) : (a >>> 1).toNat = a.toNat / 2 := by
  rw [BitVec.toNat_ushiftRight, Nat.shiftRight_one]

theorem shiftLeft_one_toNat (a : Byte) : (a <<< 1).toNat = a.toNat * 2 % 256 := by
  rw [BitVec.toNat_shiftLeft, Nat.shiftLeft_eq]

theorem carry_toNat (a b : Byte) : (carry a b).toNat = if a.toNat + b.toNat > 255 then 1 else 0 :=
  Bool.cond_decide _ _ _

theorem noBorrow_toNat (a b : Byte) : (noBorrow a b).toNat = if b.toNat ≤ a.toNat then 1 else 0 :=
  Bool.cond_decide _ _ _

theorem shiftedOutRight_toNat (a : Byte) : (shiftedOutRight a).toNat = a.toNat % 2 := by
  have h : (shiftedOutRight a).toNat = a.toNat / 2 ^ 0 % 2 := Nat.toNat_testBit _ _
  omega

theorem shiftedOutLeft_toNat (a : Byte) : (shiftedOutLeft a).toNat = a.toNat / 128 := by
  have := a.isLt
  have h : (shiftedOutLeft a).toNat = a.toNat / 2 ^ 7 % 2 := Nat.toNat_testBit _ _
  omega

/-- SHIFT_SOURCE selects the register that is shifted (spec/00_scope.md R7). -/
theorem shiftSource_toNat {src : Nat} (h : (s.params.shiftSource = .vx ∧ src = (s.reg x).toNat) ∨
    (s.params.shiftSource = .vy ∧ src = (s.reg y).toNat)) : (shiftSource s x y).toNat = src := by
  rcases h with ⟨hp, rfl⟩ | ⟨hp, rfl⟩ <;> simp only [shiftSource, hp]

/-! ### The obligations -/

/-- Settles O31: both write V[x] alone; the addition of bytes is the sum modulo 256. -/
theorem immediateLoadAndAdd : Obligations.ImmediateLoadAndAdd := by
  unfold Obligations.ImmediateLoadAndAdd
  intro s x nn
  refine ⟨formatFI_toNat (by decide) x nn, formatFI_toNat (by decide) x nn, completes_of_setReg rfl, ?_⟩
  obtain ⟨t, he, hx, hrest⟩ := completes_of_setReg (s := s) (i := .addImm x nn) rfl
  exact ⟨t, he, hx ▸ BitVec.toNat_add _ _, hrest⟩

/-- Settles O32: each writes V[x] alone, with the copy or the bitwise operation of V[x] and V[y]. -/
theorem copyAndLogicWriteNoFlag : Obligations.CopyAndLogicWriteNoFlag := by
  unfold Obligations.CopyAndLogicWriteNoFlag
  intro s x y
  have hword (n : Fin 16) := formatFR_toNat_pattern (op := 0x8) (by decide) x y n
  refine ⟨⟨hword 0, hword 1, hword 2, hword 3⟩, completes_of_setReg rfl, ?_, ?_, ?_⟩
  · obtain ⟨t, he, hx, hrest⟩ := completes_of_setReg (s := s) (i := .orReg x y) rfl
    exact ⟨t, he, fun _ => hx ▸ BitVec.getLsbD_or, hrest⟩
  · obtain ⟨t, he, hx, hrest⟩ := completes_of_setReg (s := s) (i := .andReg x y) rfl
    exact ⟨t, he, fun _ => hx ▸ BitVec.getLsbD_and, hrest⟩
  · obtain ⟨t, he, hx, hrest⟩ := completes_of_setReg (s := s) (i := .xorReg x y) rfl
    exact ⟨t, he, fun _ => hx ▸ BitVec.getLsbD_xor, hrest⟩

/-- Settles O33: the addition of bytes is the sum modulo 256, and the flag is the carry. -/
theorem addSetsCarry : Obligations.AddSetsCarry := by
  unfold Obligations.AddSetsCarry
  intro s x y
  exact ⟨formatFR_toNat_pattern (by decide) x y 4, completes_of_setResult rfl (BitVec.toNat_add _ _) (carry_toNat _ _)⟩

/-- Settles O34: the two subtractions differ in the order of their operands alone. -/
theorem subtractsSetNotBorrow : Obligations.SubtractsSetNotBorrow := by
  unfold Obligations.SubtractsSetNotBorrow
  intro s x y
  exact ⟨formatFR_toNat_pattern (by decide) x y 5, formatFR_toNat_pattern (by decide) x y 7,
    completes_of_setResult rfl (sub_toNat_modulo _ _) (noBorrow_toNat _ _),
    completes_of_setResult rfl (sub_toNat_modulo _ _) (noBorrow_toNat _ _)⟩

/-- Settles O35: the byte shifted is the one SHIFT_SOURCE selects, and the flag is its lowest or its highest bit. -/
theorem shiftsSetTheBitShiftedOut : Obligations.ShiftsSetTheBitShiftedOut := by
  unfold Obligations.ShiftsSetTheBitShiftedOut
  intro s x y src hsrc
  rw [← shiftSource_toNat hsrc]
  exact ⟨formatFR_toNat_pattern (by decide) x y 6, formatFR_toNat_pattern (by decide) x y 0xE,
    completes_of_setResult rfl (shiftRight_one_toNat _) (shiftedOutRight_toNat _),
    completes_of_setResult rfl (shiftLeft_one_toNat _) (shiftedOutLeft_toNat _)⟩

/-- Settles O36: the drawn byte stays opaque; the register write, the count of the draw and `next()` each have their frame. -/
theorem randomIsAMaskedDraw : Obligations.RandomIsAMaskedDraw := by
  unfold Obligations.RandomIsAMaskedDraw
  intro s x nn
  have hreg : (rndWith (Config.draw s.draws) x nn s).reg x = Config.draw s.draws &&& nn := s.setReg_reg_self x _
  have hframe : UnchangedBut [.v x, .draws, .pc] s (rndWith (Config.draw s.draws) x nn s) :=
    ((unchangedBut_setReg s x _).trans (unchangedBut_countDraw _)).trans (unchangedBut_jump _ _)
  exact ⟨formatFI_toNat (by decide) x nn, _, _, rfl, rfl, rfl, fun _ => hreg ▸ BitVec.getLsbD_and, rfl,
    hframe.mono (by simp)⟩

end Sys2Proof.Machine

/-! ## The control family: jumps, call and return, skips

Every instruction of the family ends in one jump, to a target, to a popped address or past the next instruction. The call and the
return have their frames from the push and the pop; the round trip is put together from the two. -/

namespace Sys2Proof.Machine

variable {s t : State} {i : Instr}

/-! ### Targets as numbers (spec/42_control.md R201, R208) -/

theorem zext16_addr_toNat (nnn : Addr) : (zext16 nnn).toNat = nnn.toNat :=
  BitVec.toNat_setWidth_of_le (by decide)

/-- The sum of a 12-bit address and a byte fits 16 bits, so BNNN reduces nothing. -/
theorem indexedTarget_toNat (s : State) (nnn : Addr) : (indexedTarget s nnn).toNat = nnn.toNat + (s.reg 0).toNat := by
  have := nnn.isLt
  have := (s.reg 0).isLt
  have hv : (zext16 (s.reg 0)).toNat = (s.reg 0).toNat := BitVec.toNat_setWidth_of_le (by decide)
  rw [indexedTarget, BitVec.toNat_add, zext16_addr_toNat, hv]
  omega

/-! ### The ways to complete, and to abort -/

theorem unchangedBut_skipIf (s : State) (c : Bool) : UnchangedBut [.pc] s (s.skipIf c) := by
  cases c
  · exact unchangedBut_jump s (s.pc + 2)
  · exact unchangedBut_jump s (s.pc + 4)

/-- An instruction that jumps to a target standing for `n`, and does nothing else. -/
theorem completes_of_jump {a : Word} {n : Nat} (h : exec i s = .next (s.jump a)) (ha : a.toNat = n) :
    ∃ t, exec i s = .next t ∧ t.pc.toNat = n ∧ UnchangedBut [.pc] s t :=
  ⟨_, h, ha, unchangedBut_jump s a⟩

/-- An instruction that skips when `c` holds, and does nothing else; `a` is where it goes. -/
theorem completes_of_skipIf {c : Bool} {a : Word} (h : exec i s = .next (s.skipIf c))
    (ha : (if c then s.pc + 4 else s.pc + 2) = a) :
    ∃ t, exec i s = .next t ∧ t.pc = a ∧ UnchangedBut [.pc] s t :=
  ⟨_, h, (s.skipIf_pc c).trans ha, unchangedBut_skipIf s c⟩

/-- An instruction whose work raised `k` takes that error (spec/40_engine.md R128). -/
theorem aborts_of_finish_error {k : ErrorKind} (h : exec i s = finish i s (.error k)) : Aborts i s k :=
  ⟨_, h, rfl, rfl, unchangedBut_abort s k _⟩

/-! ### The call stack (spec/42_control.md R202, R203) -/

theorem push_of_full {a : Word} (h : s.sp.val = 16) : s.push a = .error .stackOverflow := by
  rcases State.push_cases (s := s) (a := a) rfl with ⟨-, he⟩ | ⟨hlt, -⟩
  · exact he
  · exact absurd h hlt.ne

theorem popJump_of_empty (h : s.sp.val = 0) : s.popJump = .error .stackUnderflow := by
  rcases State.popJump_cases (s := s) rfl with ⟨-, he⟩ | ⟨hpos, -⟩
  · exact he
  · exact absurd h hpos.ne'

/-- A push below the depth: what it writes, and its frame. -/
theorem push_completes (a : Word) (h : s.sp.val < 16) :
    ∃ t, s.push a = .ok t ∧ t.stack = s.stack.set s.sp.val a h ∧ t.sp.val = s.sp.val + 1 ∧ UnchangedBut [.stack, .sp] s t := by
  refine ⟨_, State.push_of_lt h, rfl, rfl, fun c hc => ?_⟩
  cases c with
  | stack | sp => simp at hc
  | _ => rfl

/-- A pop above the bottom: where it goes, and its frame, which keeps the popped entry. -/
theorem popJump_completes (hpos : 0 < s.sp.val) (h : s.sp.val - 1 < 16) :
    ∃ t, s.popJump = .ok t ∧ t.sp.val = s.sp.val - 1 ∧ t.pc = s.stack[s.sp.val - 1]'h ∧ UnchangedBut [.sp, .pc] s t := by
  rcases State.popJump_cases (s := s) rfl with ⟨hzero, -⟩ | ⟨_, _, _, he⟩
  · exact absurd hzero hpos.ne'
  · refine ⟨_, he, rfl, rfl, fun c hc => ?_⟩
    cases c with
    | sp | pc => simp at hc
    | _ => rfl

theorem exec_call_of_push {nnn : Addr} (h : s.push (returnAddr s) = .ok t) :
    exec (.call nnn) s = .next (t.jump (zext16 nnn)) := by
  simp only [exec, execCall, h, finish]

theorem exec_call_of_push_error {nnn : Addr} {k : ErrorKind} (h : s.push (returnAddr s) = .error k) :
    exec (.call nnn) s = finish (.call nnn) s (.error k) := by
  simp only [exec, execCall, h]

theorem exec_ret (s : State) : exec .ret s = finish .ret s s.popJump := rfl

/-! ### The obligations -/

/-- Settles O37: both are a jump and no more, and neither target needs more than 16 bits. -/
theorem jumpsGoToTheirTarget : Obligations.JumpsGoToTheirTarget := by
  unfold Obligations.JumpsGoToTheirTarget
  intro s nnn
  exact ⟨formatFA_toNat (by decide) nnn, formatFA_toNat (by decide) nnn,
    completes_of_jump rfl (zext16_addr_toNat nnn), completes_of_jump rfl (indexedTarget_toNat s nnn)⟩

/-- Settles O38: a call is a push of the return address and a jump; the push fails only on a full stack. -/
theorem callPushesTheReturnAddress : Obligations.CallPushesTheReturnAddress := by
  unfold Obligations.CallPushesTheReturnAddress
  refine fun s nnn => ⟨formatFA_toNat (by decide) nnn, fun h => ?_, fun hfull => ?_⟩
  · obtain ⟨t, hpush, hstack, hsp, hframe⟩ := push_completes (returnAddr s) h
    exact ⟨_, exec_call_of_push hpush, hstack, hsp, zext16_addr_toNat nnn, hframe.trans (unchangedBut_jump t _)⟩
  · exact aborts_of_finish_error (exec_call_of_push_error (push_of_full hfull))

/-- Settles O39: a return is a pop, which fails only on an empty stack. -/
theorem returnPopsItsTarget : Obligations.ReturnPopsItsTarget := by
  unfold Obligations.ReturnPopsItsTarget
  refine ⟨rfl, fun s => ⟨fun hpos h => ?_, fun hempty => ?_⟩⟩
  · obtain ⟨t, hpop, hrest⟩ := popJump_completes hpos h
    exact ⟨t, by rw [exec_ret, hpop, finish], hrest⟩
  · exact aborts_of_finish_error (by rw [exec_ret, popJump_of_empty hempty])

/-- Settles O40: each is a `skipIf`, on the comparison or on its negation. -/
theorem skipsAdvanceByFourOrTwo : Obligations.SkipsAdvanceByFourOrTwo := by
  unfold Obligations.SkipsAdvanceByFourOrTwo
  intro s x y nn
  exact ⟨⟨formatFI_toNat (by decide) x nn, formatFI_toNat (by decide) x nn,
      formatFR_toNat (by decide) x y 0, formatFR_toNat (by decide) x y 0⟩,
    completes_of_skipIf rfl (by simp), completes_of_skipIf rfl (by simp),
    completes_of_skipIf rfl (by simp), completes_of_skipIf rfl (by simp)⟩

/-- Settles O41: the return pops the entry the call pushed; SP, which both write, is back where it was. -/
theorem callThenReturnComesBack : Obligations.CallThenReturnComesBack := by
  unfold Obligations.CallThenReturnComesBack
  intro s nnn h
  obtain ⟨-, hcalls, -⟩ := callPushesTheReturnAddress s nnn
  obtain ⟨t, hcall, hstack, hsp, -, hframe⟩ := hcalls h
  obtain ⟨-, hrets⟩ := returnPopsItsTarget
  obtain ⟨hpops, -⟩ := hrets t
  obtain ⟨u, hret, husp, hupc, huframe⟩ := hpops (by omega) (by omega)
  have htop : t.sp.val - 1 = s.sp.val := by omega
  have hspback : u.sp = s.sp := Fin.ext (husp.trans htop)
  have hboth : UnchangedBut [.sp, .pc, .stack] s u := (hframe.trans huframe).mono (by simp)
  refine ⟨t, u, hcall, hret, ?_, hspback, (huframe .stack (by decide)).trans hstack, hboth.of_cons hspback⟩
  simp [hupc, hstack, htop]

end Sys2Proof.Machine

/-! ## The memory and index family: writes of I, and the stores and the load through I

FX33 and FX55 are one run of stores with different bytes: which addresses make a store fail, what a run of stores leaves in memory,
and how `storeAtI` completes or aborts are said once for both. -/

namespace Sys2Proof.Machine

variable {s t : State} {a n : Nat} {i : Instr} {x : Reg}

/-! ### Words of format FS (spec/30_encoding.md R92) -/

/-- The sub-opcode is part of the constant that an opcode pattern such as FX1E begins with. -/
theorem formatFS_toNat_pattern {op : Nat} (h : op < 16) (x : Reg) (sub : Byte) :
    (formatFS op x sub).toNat = op * 0x1000 + sub.toNat + x.val * 0x100 := by
  rw [formatFS, formatFI_toNat h]
  omega

/-! ### Writes of I (spec/43_memory_index.md R231 to R233) -/

theorem unchangedBut_setI (s : State) (a : Word) : UnchangedBut [.i] s (s.setI a) := by
  intro c hc
  cases c with
  | i => simp at hc
  | _ => rfl

/-- An instruction that writes I with a word standing for `n`, and goes to the next one. -/
theorem completes_of_setI {a : Word} (h : exec i s = .next (s.setI a).next) (ha : a.toNat = n) :
    ∃ t, exec i s = .next t ∧ t.i.toNat = n ∧ t.pc = s.pc + 2 ∧ UnchangedBut [.i, .pc] s t :=
  ⟨_, h, ha, rfl, (unchangedBut_setI s a).trans (unchangedBut_jump _ _)⟩

theorem add_zext16_toNat (w : Word) (b : Byte) : (w + zext16 b).toNat = (w.toNat + b.toNat) % 65536 := by
  have hb : (zext16 b).toNat = b.toNat := BitVec.toNat_setWidth_of_le (by decide)
  rw [BitVec.toNat_add, hb]

theorem glyphAddr_toNat (b : Byte) : (glyphAddr b).toNat = 5 * (b.toNat % 16) := by
  have hlow : (b &&& 0x0F#8).toNat = b.toNat % 16 := (BitVec.toNat_and _ _).trans (and_15 _)
  rw [glyphAddr, hlow, BitVec.toNat_ofNat, Nat.zero_add]
  exact Nat.mod_eq_of_lt (by simp only [Config.glyphHeight]; omega)

/-! ### What an address resolves to (spec/20_memory.md R63) -/

/-- Under reject only an address of memory resolves, and to itself. -/
theorem resolve_ok_of_reject {p : AddrPolicy} {c : Nat} (h : resolve p a = .ok c) (hp : p = .reject) :
    a < Config.memSize ∧ c = a := by
  rcases resolve_cases h with ⟨ha, hc⟩ | ⟨-, -, hc⟩ | ⟨-, hw, -⟩
  · cases hc; exact ⟨ha, rfl⟩
  · cases hc
  · rw [hp] at hw; cases hw

theorem resolve_ok_eq_mod {p : AddrPolicy} {c : Nat} (h : resolve p a = .ok c) : c = a % Config.memSize := by
  rcases resolve_cases h with ⟨ha, hc⟩ | ⟨-, -, hc⟩ | ⟨-, -, hc⟩ <;> cases hc
  · exact (Nat.mod_eq_of_lt ha).symm
  · rfl

/-! ### When a store fails (spec/20_memory.md R63, R64) -/

/-- The error that a store to `a` raises under the parameters `p`. -/
inductive StoreRaises (p : Params) (a : Nat) : ErrorKind → Prop
  | outside (h : resolve p.addrPolicy a = .error .addressViolation) : StoreRaises p a .addressViolation
  | glyph {c : Nat} (h : resolve p.addrPolicy a = .ok c) (hc : c < Config.glyphSize) (hp : p.glyphWritePolicy = .fault) :
      StoreRaises p a .glyphWriteViolation

theorem memWrite_error_iff {v : Byte} {k : ErrorKind} : memWrite s a v = .error k ↔ StoreRaises s.params a k := by
  constructor
  · intro h
    cases hr : resolve s.params.addrPolicy a with
    | error e =>
      cases h.symm.trans (memWrite_of_resolve_error hr)
      rcases resolve_cases hr with ⟨-, he⟩ | ⟨-, -, he⟩ | ⟨-, -, he⟩ <;> cases he
      exact .outside hr
    | ok c =>
      have hc : ¬ Config.glyphSize ≤ c := fun hc => by cases h.symm.trans (memWrite_performed hr (.inl hc))
      rcases memWrite_error h with ⟨-, he⟩ | ⟨rfl, hp⟩
      · cases hr.symm.trans he
      · exact .glyph hr (Nat.lt_of_not_le hc) hp
  · rintro (hr | ⟨hr, hc, hp⟩)
    · exact memWrite_of_resolve_error hr
    · exact memWrite_glyph_fault hr hc hp

/-- A byte that can be stored raises nothing. -/
theorem not_storeRaises {p : Params} {c : Nat} {k : ErrorKind} (h : resolve p.addrPolicy a = .ok c)
    (hc : Config.glyphSize ≤ c ∨ p.glyphWritePolicy ≠ .fault) : ¬ StoreRaises p a k := by
  rintro (hr | ⟨hr, hlt, hp⟩) <;> cases h.symm.trans hr
  exact hc.elim (Nat.not_le.mpr hlt) (absurd hp)

/-- A store changes no parameter. -/
theorem memWrite_params {v : Byte} (h : memWrite s a v = .ok t) : t.params = s.params := by
  rcases memWrite_cases h with ⟨rfl, -⟩ | ⟨c, -, -, rfl⟩ <;> rfl

/-- All a run of stores can do: succeed where no byte raises an error, or stop with the error of some byte. -/
theorem writeBytes_cases : ∀ (bs : List Byte) (s : State) (a : Nat),
    ((∀ j < bs.length, ∀ k, ¬ StoreRaises s.params (a + j) k) ∧ ∃ t, writeBytes s a bs = .ok t) ∨
      ∃ j < bs.length, ∃ k, StoreRaises s.params (a + j) k ∧ writeBytes s a bs = .error k
  | [], s, _ => .inl ⟨by simp, s, rfl⟩
  | b :: rest, s, a => by
    cases hw : memWrite s a b with
    | error k => exact .inr ⟨0, by simp, k, memWrite_error_iff.mp hw, by simp only [writeBytes, hw]⟩
    | ok u =>
      have hstep : writeBytes s a (b :: rest) = writeBytes u (a + 1) rest := by simp only [writeBytes, hw]
      have hshift (j : Nat) : a + 1 + j = a + (j + 1) := by omega
      rw [hstep]
      rcases writeBytes_cases rest u (a + 1) with ⟨hno, hok⟩ | ⟨j, hj, k, hk, he⟩
      · refine .inl ⟨fun j hj k hk => ?_, hok⟩
        cases j with
        | zero => cases hw.symm.trans (memWrite_error_iff.mpr hk)
        | succ j => exact hno j (by simpa using hj) k (by rwa [memWrite_params hw, hshift])
      · exact .inr ⟨j + 1, by simpa using hj, k, by rwa [memWrite_params hw, hshift] at hk, he⟩

/-- A run of stores raises `k` when some byte raises `k` and no byte raises another error. -/
theorem writeBytes_raises {bs : List Byte} {k : ErrorKind} {j : Nat} (hj : j < bs.length)
    (hk : StoreRaises s.params (a + j) k)
    (honly : ∀ j < bs.length, ∀ e, StoreRaises s.params (a + j) e → e = k) : writeBytes s a bs = .error k := by
  rcases writeBytes_cases bs s a with ⟨hno, -⟩ | ⟨j', hj', e, he, hr⟩
  · exact absurd hk (hno j hj k)
  · rw [hr, honly j' hj' e he]

/-- A short run of addresses does not reach both the outside of memory under reject and the glyph table. -/
theorem not_outside_and_glyph {p : AddrPolicy} {k : ErrorKind} {c j j' : Nat} (h : resolve p (a + j) = .error k)
    (h' : resolve p (a + j') = .ok c) (hc : c < Config.glyphSize) (hj : j < 16) : False := by
  rcases resolve_cases h with ⟨-, he⟩ | ⟨hout, hp, -⟩ | ⟨-, -, he⟩
  · cases he
  · obtain ⟨-, rfl⟩ := resolve_ok_of_reject h' hp
    simp only [Config.memSize, Config.glyphSize] at hout hc
    omega
  · cases he

/-! ### What a run of stores leaves in memory (spec/20_memory.md R64, R68) -/

theorem memWrite_byteAt {v : Byte} {c : Nat} (h : memWrite s a v = .ok t)
    (hwf : Memory.wf s.params.glyphTable s.mem = true) (hc : resolve s.params.addrPolicy a = .ok c) :
    t.byteAt c = if Config.glyphSize ≤ c ∨ s.params.glyphWritePolicy = .write then v else s.byteAt c := by
  split
  · next hput => cases h.symm.trans (memWrite_performed hc hput); exact s.setByte_byteAt_self c v hwf
  · next hput =>
    rcases memWrite_cases h with ⟨rfl, -⟩ | ⟨c', hc', hput', -⟩
    · rfl
    · cases hc.symm.trans hc'; exact absurd hput' hput

theorem memWrite_byteAt_other {v : Byte} (h : memWrite s a v = .ok t) (hn : resolve s.params.addrPolicy a ≠ .ok n) :
    t.byteAt n = s.byteAt n := by
  rcases memWrite_cases h with ⟨rfl, -⟩ | ⟨c, hc, -, rfl⟩
  · rfl
  · exact s.setByte_byteAt_other v fun heq => hn (heq ▸ hc)

theorem memWrite_wf {v : Byte} (h : memWrite s a v = .ok t) (hwf : Memory.wf s.params.glyphTable s.mem = true) :
    Memory.wf t.params.glyphTable t.mem = true := by
  rcases memWrite_cases h with ⟨rfl, -⟩ | ⟨c, hc, -, rfl⟩
  · exact hwf
  · exact s.setByte_wf v (resolve_lt hc) hwf

/-- Each byte of a run no longer than memory stands at its address, unless `ignore` dropped it: no other store of the run has that
address. -/
theorem writeBytes_byteAt : ∀ {bs : List Byte} {s t : State} {a : Nat}, writeBytes s a bs = .ok t →
    bs.length ≤ Config.memSize → Memory.wf s.params.glyphTable s.mem = true →
    ∀ (k : Nat) (h : k < bs.length) (c : Nat), resolve s.params.addrPolicy (a + k) = .ok c →
      t.byteAt c = if Config.glyphSize ≤ c ∨ s.params.glyphWritePolicy = .write then bs[k] else s.byteAt c
  | [], _, _, _, _, _, _, _, h, _, _ => by simp at h
  | b :: rest, s, t, a, h, hlen, hwf, k, hk, c, hc => by
    simp only [List.length_cons] at hlen hk
    unfold writeBytes at h
    split at h
    · cases h
    · next u hu =>
      have hp := memWrite_params hu
      cases k with
      | zero =>
        rw [writeBytes_byteAt_other h, memWrite_byteAt hu hwf hc]
        · rfl
        · intro j hj hj'
          have := resolve_injective hc (hp ▸ hj') (by omega)
          omega
      | succ k =>
        have hc' : resolve u.params.addrPolicy (a + 1 + k) = .ok c := by rwa [hp, Nat.add_assoc, Nat.add_comm 1]
        have hother : u.byteAt c = s.byteAt c := memWrite_byteAt_other hu fun ha => by
          have := resolve_injective ha hc (by omega)
          omega
        rw [writeBytes_byteAt h (by omega) (memWrite_wf hu hwf) k (by omega) c hc', hp, hother]
        rfl

/-! ### FX33 and FX55: a run of stores at I (spec/43_memory_index.md R234, R235) -/

theorem mem_storeTouched {c : Nat} :
    .mem c ∈ storeTouched s n ↔ ∃ k < n, resolve s.params.addrPolicy (effectiveAddr s k) = .ok c := by
  simp only [storeTouched, List.mem_filterMap, List.mem_range]
  refine exists_congr fun k => and_congr_right fun _ => ?_
  cases resolve s.params.addrPolicy (effectiveAddr s k) <;> simp

theorem unchangedBut_writeBytes {bs : List Byte} (h : writeBytes s (effectiveAddr s 0) bs = .ok t) :
    UnchangedBut (storeTouched s bs.length) s t := by
  have hother (c : Nat) := writeBytes_byteAt_other (n := c) h
  obtain ⟨m, rfl⟩ := writeBytes_mem_only h
  exact .of_mem fun c hc => hother c fun k hk hr => hc (mem_storeTouched.mpr ⟨k, hk, hr⟩)

theorem storeAtI_of_writeBytes {bs : List Byte} (h : writeBytes s (effectiveAddr s 0) bs = .ok t) :
    storeAtI bs s = .ok t.next := by
  simp only [storeAtI, h]

section stores

variable {bytes : List Byte} (hexec : exec i s = finish i s (storeAtI bytes s))
include hexec

theorem completes_of_storeAtI (hwf : Memory.wf s.params.glyphTable s.mem = true) (hlen : bytes.length ≤ 16)
    (h : Storable s bytes.length) :
    ∃ t, exec i s = .next t ∧ Stored s t bytes ∧ t.pc = s.pc + 2 ∧
      UnchangedBut (.pc :: storeTouched s bytes.length) s t := by
  rcases writeBytes_cases bytes s (effectiveAddr s 0) with ⟨-, u, hu⟩ | ⟨j, hj, k, hk, -⟩
  · have hpc : u.pc = s.pc := by obtain ⟨m, rfl⟩ := writeBytes_mem_only hu; rfl
    have hstored : Stored s u bytes := writeBytes_byteAt hu (hlen.trans (by decide)) hwf
    have hframe := (unchangedBut_writeBytes hu).trans (unchangedBut_jump u (u.pc + 2))
    exact ⟨u.next, by rw [hexec, storeAtI_of_writeBytes hu, finish], hstored, congrArg (· + 2) hpc, hframe.mono (by simp)⟩
  · obtain ⟨c, hc, hput⟩ := h j hj
    exact absurd hk (not_storeRaises hc hput)

theorem aborts_of_storeAtI_error {k : ErrorKind} (h : writeBytes s (effectiveAddr s 0) bytes = .error k) : Aborts i s k :=
  aborts_of_finish_error (by rw [hexec, storeAtI, h])

theorem aborts_of_storeAtI_outside {j : Nat} (hlen : bytes.length ≤ 16) (hj : j < bytes.length)
    (hp : s.params.addrPolicy = .reject) (hout : Config.memSize ≤ effectiveAddr s j) : Aborts i s .addressViolation := by
  have hr : resolve s.params.addrPolicy (effectiveAddr s 0 + j) = .error .addressViolation := resolve_reject hout hp
  refine aborts_of_storeAtI_error hexec (writeBytes_raises hj (.outside hr) ?_)
  rintro j' - e (_ | ⟨hc, hlt, -⟩)
  · rfl
  · exact (not_outside_and_glyph hr hc hlt (hj.trans_le hlen)).elim

theorem aborts_of_storeAtI_glyph {j c : Nat} (hlen : bytes.length ≤ 16) (hj : j < bytes.length)
    (hp : s.params.glyphWritePolicy = .fault) (hc : resolve s.params.addrPolicy (effectiveAddr s j) = .ok c)
    (hlt : c < Config.glyphSize) : Aborts i s .glyphWriteViolation := by
  refine aborts_of_storeAtI_error hexec (writeBytes_raises hj (.glyph hc hlt hp) ?_)
  rintro j' hj' e (hr | _)
  · exact (not_outside_and_glyph hr hc hlt (hj'.trans_le hlen)).elim
  · rfl

end stores

/-- The bytes of FX55 are the registers of the list that the statement names. -/
theorem regsUpTo_eq (s : State) (x : Reg) :
    regsUpTo s x = (List.finRange 16).filterMap fun r => if r ≤ x then some (s.reg r) else none := by
  have hall : s.v.toList = (List.finRange 16).map s.reg := by
    apply List.ext_getElem <;> simp [State.reg]
  have hfront : ∀ x : Reg, (List.finRange 16).filter (fun r => r ≤ x) = (List.finRange 16).take (x.val + 1) := by decide
  rw [regsUpTo, hall, ← List.map_take, ← hfront, ← List.filterMap_eq_map, List.filterMap_filter]
  refine congrArg (List.filterMap · _) (funext fun r => ?_)
  by_cases hr : r ≤ x <;> simp [hr]

/-! ### FX65: a run of reads at I (spec/43_memory_index.md R236) -/

/-- A run of reads fails with AddressViolation when one of its addresses is outside memory under reject. -/
theorem readBytes_reject (hp : s.params.addrPolicy = .reject) : ∀ {n a k : Nat}, k < n → Config.memSize ≤ a + k →
    readBytes s a n = .error .addressViolation
  | 0, _, _, hk, _ => absurd hk (Nat.not_lt_zero _)
  | n + 1, a, k, hk, ha => by
    cases hr : memRead s a with
    | error e => simp only [readBytes, hr, (memRead_error hr).1]
    | ok b =>
      cases k with
      | zero => rw [memRead, resolve_reject (a := a) ha hp] at hr; cases hr
      | succ k =>
        have hrest := readBytes_reject hp (n := n) (a := a + 1) (k := k) (by omega) (by omega)
        simp only [readBytes, hr, hrest]

theorem mem_regsTouched {r : Reg} : .v r ∈ regsTouched x ↔ r ≤ x := by
  simp [regsTouched]

theorem setRegs_reg_of_lt {bs : List Byte} {r : Reg} (h : r.val < bs.length) : (s.setRegs 0 bs).reg r = bs[r.val] := by
  simp [State.setRegs_reg, h]

theorem setRegs_reg_of_ge {bs : List Byte} {r : Reg} (h : bs.length ≤ r.val) : (s.setRegs 0 bs).reg r = s.reg r := by
  simp [State.setRegs_reg, h]

/-- A load of `x + 1` bytes from V0 on ends at V[x]. -/
theorem unchangedBut_setRegs {bs : List Byte} (h : bs.length = x.val + 1) :
    UnchangedBut (regsTouched x) s (s.setRegs 0 bs) := by
  have hafter (r : Reg) (hr : .v r ∉ regsTouched x) : (s.setRegs 0 bs).reg r = s.reg r := by
    have hlt : x < r := lt_of_not_ge (mt mem_regsTouched.mpr hr)
    exact setRegs_reg_of_ge (h ▸ hlt)
  obtain ⟨v, hv⟩ := State.setRegs_v_only bs s 0
  rw [hv] at hafter ⊢
  intro c hc
  cases c with
  | v r => exact hafter r hc
  | _ => rfl

theorem exec_ldVxMem_of_readBytes {bs : List Byte} (h : readBytes s (effectiveAddr s 0) (x.val + 1) = .ok bs) :
    exec (.ldVxMem x) s = .next (s.setRegs 0 bs).next := by
  simp only [exec, execLdVxMem, h, finish]

theorem exec_ldVxMem_of_readBytes_error {k : ErrorKind}
    (h : readBytes s (effectiveAddr s 0) (x.val + 1) = .error k) :
    exec (.ldVxMem x) s = finish (.ldVxMem x) s (.error k) := by
  simp only [exec, execLdVxMem, h]

/-! ### The obligations -/

/-- Settles O42: each writes I alone; the sum wraps at 2^16, and the glyphs are 5 bytes apart. -/
theorem indexWrites : Obligations.IndexWrites := by
  unfold Obligations.IndexWrites
  intro s x nnn
  exact ⟨⟨formatFA_toNat (by decide) nnn, formatFS_toNat_pattern (by decide) x 0x1E,
      formatFS_toNat_pattern (by decide) x 0x29⟩,
    completes_of_setI rfl (zext16_addr_toNat nnn), completes_of_setI rfl (add_zext16_toNat _ _),
    completes_of_setI rfl (glyphAddr_toNat _)⟩

/-- Settles O43: FX33 is a run of three stores, of the decimal digits. -/
theorem bcdStoresThreeDigits : Obligations.BcdStoresThreeDigits := by
  unfold Obligations.BcdStoresThreeDigits
  intro s x hwf
  have hexec : exec (.ldB x) s = finish (.ldB x) s (storeAtI (decimalDigits (s.reg x)) s) := rfl
  have hlen : (decimalDigits (s.reg x)).length ≤ 16 := by rw [decimalDigits_length]; decide
  have hb := (s.reg x).isLt
  have hdigit {d : Nat} (hd : d < 256) : (BitVec.ofNat 8 d).toNat = d := Nat.mod_eq_of_lt hd
  refine ⟨formatFS_toNat_pattern (by decide) x 0x33, fun h => ?_, fun hp hout => ?_, fun hp ⟨k, hk, c, hc, hr⟩ => ?_⟩
  · obtain ⟨t, he, hstored, hrest⟩ := completes_of_storeAtI hexec hwf hlen h
    exact ⟨t, _, _, _, he, hdigit (by omega), hdigit (by omega), hdigit (by omega), hstored, hrest⟩
  · exact aborts_of_storeAtI_outside hexec hlen (j := 2) (by simp [decimalDigits]) hp hout
  · exact aborts_of_storeAtI_glyph hexec hlen hk hp hr hc

/-- Settles O44: FX55 is a run of stores, of the registers up to V[x]. -/
theorem bulkStoreWritesRegistersInOrder : Obligations.BulkStoreWritesRegistersInOrder := by
  unfold Obligations.BulkStoreWritesRegistersInOrder
  intro s x hwf
  have hexec : exec (.ldMemVx x) s = finish (.ldMemVx x) s (storeAtI (regsUpTo s x) s) := rfl
  have hcount := regsUpTo_length s x
  have hlen : (regsUpTo s x).length ≤ 16 := hcount ▸ x.isLt
  refine ⟨formatFS_toNat_pattern (by decide) x 0x55, fun h => ?_, fun hp hout => ?_, fun hp ⟨k, hk, c, hc, hr⟩ => ?_⟩
  · rw [← regsUpTo_eq, ← hcount]
    exact completes_of_storeAtI hexec hwf hlen (hcount ▸ h)
  · exact aborts_of_storeAtI_outside hexec hlen (j := x.val) (by omega) hp hout
  · exact aborts_of_storeAtI_glyph hexec hlen (j := k) (by omega) hp hr hc

/-- Settles O45: the bytes are read before the first register is written, so a failed read changes no register. -/
theorem bulkLoadReadsRegistersInOrder : Obligations.BulkLoadReadsRegistersInOrder := by
  unfold Obligations.BulkLoadReadsRegistersInOrder
  intro s x
  refine ⟨formatFS_toNat_pattern (by decide) x 0x65, fun h => ?_, fun hp hout => ?_⟩
  · have hread := readBytes_of_resolve (s := s) (a := effectiveAddr s 0) h
    have hlen := readBytes_length hread
    have hpc := unchangedBut_setRegs (s := s) hlen .pc (by simp [regsTouched])
    refine ⟨_, exec_ldVxMem_of_readBytes hread, fun r c hr hc => ?_, congrArg (· + 2) hpc,
      ((unchangedBut_setRegs hlen).trans (unchangedBut_jump _ _)).mono (by simp)⟩
    rw [State.next_reg, setRegs_reg_of_lt ((Nat.lt_succ_of_le hr).trans_eq hlen.symm), resolve_ok_eq_mod hc]
    simp [effectiveAddr]
  · exact aborts_of_finish_error (exec_ldVxMem_of_readBytes_error (readBytes_reject hp (Nat.lt_succ_self _) hout))

end Sys2Proof.Machine

/-! ## The display family: clearing the screen, and sprites

A draw is taken row by row. At one pixel, the first row and the rows below it never both carry a sprite bit; so the rows' toggles
and collisions, in the order DXYN makes them, are those of the whole sprite. -/

namespace Sys2Proof.Machine

variable {s t : State} {x y : Reg} {n : Fin 16} {rows rest : List Byte}

/-! ### The sprite's bit at a pixel (spec/44_display.md R260) -/

theorem spriteBit_of_length_le (dx : Nat) {dy : Nat} (h : rows.length ≤ dy) : spriteBit rows dx dy = false := by
  simp [spriteBit, List.getElem?_eq_none h]

theorem spriteBit_cons_zero (row : Byte) (rest : List Byte) (dx : Nat) : spriteBit (row :: rest) dx 0 = row.getMsbD dx := rfl

theorem spriteBit_cons_succ (row : Byte) (rest : List Byte) (dx dy : Nat) :
    spriteBit (row :: rest) dx (dy + 1) = spriteBit rest dx dy := rfl

/-- Only the place of the sprite modulo 64 and 32 counts. -/
theorem spriteOn_mod (x y : Nat) (rows : List Byte) (px py : Nat) :
    spriteOn (x % Config.fbWidth) (y % Config.fbHeight) rows px py = spriteOn x y rows px py := by
  simp only [spriteOn, Nat.mod_mod]

/-- A pixel is in the sprite's first row, and then in none below it, or it is in a row below or outside the sprite. -/
theorem spriteOn_cons_cases (x y : Nat) (row : Byte) (h : rest.length < 32) (px py : Nat) :
    (py % 32 = y % 32 ∧ spriteOn x y (row :: rest) px py = row.getMsbD ((px + 64 - x % 64) % 64) ∧
        spriteOn x (y + 1) rest px py = false) ∨
      (py % 32 ≠ y % 32 ∧ spriteOn x y (row :: rest) px py = spriteOn x (y + 1) rest px py) := by
  simp only [spriteOn, Config.fbWidth, Config.fbHeight]
  by_cases hy : py % 32 = y % 32
  · have hfirst : (py + 32 - y % 32) % 32 = 0 := by omega
    have hbelow : (py + 32 - (y + 1) % 32) % 32 = 31 := by omega
    rw [hfirst, hbelow]
    exact .inl ⟨hy, spriteBit_cons_zero .., spriteBit_of_length_le _ (Nat.le_of_lt_succ h)⟩
  · have hbelow : (py + 32 - y % 32) % 32 = (py + 32 - (y + 1) % 32) % 32 + 1 := by omega
    rw [hbelow]
    exact .inr ⟨hy, spriteBit_cons_succ ..⟩

theorem spriteOn_nil (x y px py : Nat) : spriteOn x y [] px py = false := rfl

theorem spriteOn_singleton (x y : Nat) (row : Byte) (px py : Nat) :
    spriteOn x y [row] px py = (row.getMsbD ((px + 64 - x % 64) % 64) && decide (py % 32 = y % 32)) := by
  rcases spriteOn_cons_cases x y row (rest := []) (by decide) px py with ⟨hy, hrow, -⟩ | ⟨hy, hrow⟩
  · simp [hrow, hy]
  · simp [hrow, hy, spriteOn_nil]

/-- At one pixel, the first row or the rows below it carry no bit, and the sprite is the other. -/
theorem spriteOn_cons_exclusive (x y : Nat) (row : Byte) (h : rest.length < 32) (px py : Nat) :
    (spriteOn x y (row :: rest) px py = spriteOn x y [row] px py ∧ spriteOn x (y + 1) rest px py = false) ∨
      (spriteOn x y (row :: rest) px py = spriteOn x (y + 1) rest px py ∧ spriteOn x y [row] px py = false) := by
  rw [spriteOn_singleton]
  rcases spriteOn_cons_cases x y row h px py with ⟨hy, hrow, hrest⟩ | ⟨hy, hrest⟩
  · exact .inl ⟨by simp [hrow, hy], hrest⟩
  · exact .inr ⟨hrest, by simp [hy]⟩

/-! ### What a drawn sprite toggles, and when it collides (spec/44_display.md R262) -/

namespace Canvas

theorem drawRow_pixel_spriteOn (c : Canvas) (x y : Nat) (row : Byte) (px py : Nat) :
    (c.drawRow x y row).fb.pixel px py = (c.fb.pixel px py ^^ spriteOn x y [row] px py) := by
  rw [drawRow_pixel, spriteOn_singleton]

/-- The rows of a sprite no taller than the screen toggle exactly the pixels that the sprite's bits fall on. -/
theorem drawRows_pixel (c : Canvas) (x y : Nat) (rows : List Byte) (h : rows.length ≤ 32) (px py : Nat) :
    (c.drawRows x y rows).fb.pixel px py = (c.fb.pixel px py ^^ spriteOn x y rows px py) := by
  induction rows generalizing c y with
  | nil => simp [drawRows_nil, spriteOn_nil]
  | cons row rest ih =>
    rw [drawRows_cons, ih _ _ (Nat.le_of_succ_le h), drawRow_pixel_spriteOn]
    rcases spriteOn_cons_exclusive x y row h px py with ⟨hon, hoff⟩ | ⟨hon, hoff⟩ <;> simp [hon, hoff]

theorem collides_singleton (fb : FrameBuffer) (x y : Nat) (row : Byte) :
    Collides fb x y [row] ↔ ∃ dx < 8, row.getMsbD dx = true ∧ fb.pixel (x + dx) y = true := by
  simp only [Collides, spriteOn_singleton, Bool.and_eq_true, decide_eq_true_eq]
  constructor
  · rintro ⟨px, -, py, -, hset, hbit, hy⟩
    have hdx := BitVec.lt_of_getMsbD hbit
    refine ⟨_, hdx, hbit, ?_⟩
    have hx := (column_eq_iff px x _ hdx).mpr rfl
    rw [← fb.pixel_mod, ← hx]
    rwa [← fb.pixel_mod, show py % Config.fbHeight = y % Config.fbHeight from hy] at hset
  · rintro ⟨dx, hdx, hbit, hset⟩
    refine ⟨(x + dx) % Config.fbWidth, Nat.mod_lt _ (by decide), y % Config.fbHeight, Nat.mod_lt _ (by decide),
      (fb.pixel_mod _ _).trans hset, ?_, Nat.mod_mod _ _⟩
    rwa [(column_eq_iff _ x dx hdx).mp (Nat.mod_mod _ _)]

/-- Drawing the first row toggles no pixel that a bit of the rows below falls on, so their collisions are the same before and after. -/
theorem collides_cons (c : Canvas) (x y : Nat) (row : Byte) (h : rest.length < 32) :
    Collides c.fb x y [row] ∨ Collides (c.drawRow x y row).fb x (y + 1) rest ↔ Collides c.fb x y (row :: rest) := by
  have hpixel (px py : Nat) :
      (c.fb.pixel px py = true ∧ spriteOn x y [row] px py = true) ∨
        ((c.drawRow x y row).fb.pixel px py = true ∧ spriteOn x (y + 1) rest px py = true) ↔
      c.fb.pixel px py = true ∧ spriteOn x y (row :: rest) px py = true := by
    rw [drawRow_pixel_spriteOn]
    rcases spriteOn_cons_exclusive x y row h px py with ⟨hon, hoff⟩ | ⟨hon, hoff⟩ <;> simp [hon, hoff]
  simp only [Collides, ← exists_or, ← and_or_left, hpixel]

/-- The collision flag says whether a bit of the sprite fell on a pixel set before the draw. -/
theorem drawRows_hit (c : Canvas) (x y : Nat) (rows : List Byte) (h : rows.length ≤ 32) :
    (c.drawRows x y rows).hit = true ↔ c.hit = true ∨ Collides c.fb x y rows := by
  induction rows generalizing c y with
  | nil => simp [drawRows_nil, Collides, spriteOn_nil]
  | cons row rest ih =>
    rw [drawRows_cons, ih _ _ (Nat.le_of_succ_le h), drawRow_hit, ← collides_singleton, or_assoc, collides_cons c x y row h]

end Canvas

theorem drawSprite_pixel (s : State) (x y : Reg) (h : rows.length ≤ 32) (px py : Nat) :
    (drawSprite s x y rows).fb.pixel px py =
      (s.fb.pixel px py ^^ spriteOn (s.reg x).toNat (s.reg y).toNat rows px py) := by
  rw [drawSprite, Canvas.drawRows_pixel _ _ _ _ h, spriteColumn, spriteRow, spriteOn_mod]

theorem drawSprite_hit (s : State) (x y : Reg) (h : rows.length ≤ 32) :
    (drawSprite s x y rows).hit = true ↔ Collides s.fb (s.reg x).toNat (s.reg y).toNat rows := by
  simp [drawSprite, Canvas.drawRows_hit _ _ _ _ h, spriteColumn, spriteRow, Collides, spriteOn_mod]

/-! ### 00E0 and DXYN as executions -/

theorem unchangedBut_present (s : State) (fb : FrameBuffer) : UnchangedBut [.fb, .fbChanged] s (s.present fb) := by
  intro c hc
  cases c with
  | fb | fbChanged => simp at hc
  | _ => rfl

theorem spriteRows_length_le (s : State) (n : Fin 16) : (spriteRows s n.val).length ≤ 32 := by
  simpa [spriteRows] using n.isLt.le.trans (by decide)

theorem readBytes_eq_spriteRows {n : Nat} (h : Readable s n) : readBytes s (effectiveAddr s 0) n = .ok (spriteRows s n) :=
  readBytes_of_resolve h

theorem exec_drw_of_readBytes (h : readBytes s (effectiveAddr s 0) n.val = .ok rows) :
    exec (.drw x y n) s =
      .next ((s.present (drawSprite s x y rows).fb).setFlag (drawSprite s x y rows).hit).next := by
  simp only [exec, execDrw, h, finish]

theorem exec_drw_of_readBytes_error {k : ErrorKind} (h : readBytes s (effectiveAddr s 0) n.val = .error k) :
    exec (.drw x y n) s = finish (.drw x y n) s (.error k) := by
  simp only [exec, execDrw, h]

theorem flagByte_eq_one (c : Bool) : flagByte c = 1 ↔ c = true := by
  cases c <;> decide

theorem flagByte_bit (c : Bool) : flagByte c = 1 ∨ flagByte c = 0 := by
  cases c <;> decide

/-! ### A second draw in the state that the first left -/

theorem UnchangedBut.effectiveAddr_eq {touched : List Component} (h : UnchangedBut touched s t) (hi : .i ∉ touched) (k : Nat) :
    effectiveAddr t k = effectiveAddr s k := by
  rw [effectiveAddr, effectiveAddr, show t.i = s.i from h .i hi]

theorem UnchangedBut.readable {touched : List Component} (h : UnchangedBut touched s t) (hi : .i ∉ touched)
    (hp : .params ∉ touched) {n : Nat} (hr : Readable s n) : Readable t n := by
  have hparams : t.params = s.params := h .params hp
  simpa only [Readable, hparams, h.effectiveAddr_eq hi] using hr

theorem UnchangedBut.spriteRows_eq {touched : List Component} (h : UnchangedBut touched s t) (hi : .i ∉ touched)
    (hm : ∀ a, .mem a ∉ touched) (n : Nat) : spriteRows t n = spriteRows s n := by
  have hbyte (a : Nat) : t.byteAt a = s.byteAt a := h (.mem a) (hm a)
  simp only [spriteRows, h.effectiveAddr_eq hi, hbyte]

/-! ### The obligations -/

/-- Settles O46: the framebuffer presented is the clear one, and VF is not named by the frame of 00E0. -/
theorem clearScreenClearsEveryPixel : Obligations.ClearScreenClearsEveryPixel := by
  unfold Obligations.ClearScreenClearsEveryPixel
  exact ⟨rfl, fun s => ⟨_, rfl, fun px _ py _ => FrameBuffer.pixel_clear px py, rfl, rfl,
    (unchangedBut_present s _).trans (unchangedBut_jump _ _)⟩⟩

/-- Settles O47: the sprite is at most 15 rows tall, so no two of its rows wrap onto the same pixels. -/
theorem drawXorsTheWrappedSprite : Obligations.DrawXorsTheWrappedSprite := by
  unfold Obligations.DrawXorsTheWrappedSprite
  intro s x y n
  refine ⟨formatFR_toNat (by decide) x y n, fun h => ?_, fun hp hn hout => ?_⟩
  · have hlen := spriteRows_length_le s n
    refine ⟨_, exec_drw_of_readBytes (readBytes_eq_spriteRows h), fun px _ py _ => drawSprite_pixel s x y hlen px py, ?_, ?_,
      rfl, rfl, ((unchangedBut_present s _).trans (unchangedBut_setReg _ VF _)).trans (unchangedBut_jump _ _)⟩
    · rw [State.next_reg, State.setFlag_reg, if_pos rfl]
      exact flagByte_bit _
    · rw [State.next_reg, State.setFlag_reg, if_pos rfl, flagByte_eq_one, drawSprite_hit s x y hlen]
  · have hlast : Config.memSize ≤ effectiveAddr s 0 + (n.val - 1) := by
      simp only [effectiveAddr, Config.memSize]
      omega
    exact aborts_of_finish_error (exec_drw_of_readBytes_error (readBytes_reject hp (Nat.sub_one_lt_of_lt hn) hlast))

/-- Settles O48: the second draw reads the same rows at the same place, and a bit XORed in twice is gone. -/
theorem twoIdenticalDrawsRestoreTheFramebuffer : Obligations.TwoIdenticalDrawsRestoreTheFramebuffer := by
  unfold Obligations.TwoIdenticalDrawsRestoreTheFramebuffer
  intro s x y n hx hy hs
  obtain ⟨-, hdraws, -⟩ := drawXorsTheWrappedSprite s x y n
  obtain ⟨t, ht, htfb, -, -, -, -, hframe⟩ := hdraws hs
  have hrows := hframe.spriteRows_eq (by decide) (by simp) n.val
  have hvx : t.reg x = s.reg x := hframe (.v x) (by simpa using hx)
  have hvy : t.reg y = s.reg y := hframe (.v y) (by simpa using hy)
  obtain ⟨-, hdraws', -⟩ := drawXorsTheWrappedSprite t x y n
  obtain ⟨u, hu, hufb, -, hflag, -⟩ := hdraws' (hframe.readable (by decide) (by decide) hs)
  rw [hvx, hvy, hrows] at hufb hflag
  refine ⟨t, u, ht, hu, FrameBuffer.ext_pixel fun px py hpx hpy => ?_, hflag.trans ?_⟩
  · rw [hufb px hpx py hpy, htfb px hpx py hpy, Bool.xor_assoc, Bool.xor_self, Bool.xor_false]
  · refine exists_congr fun px => and_congr_right fun hpx => exists_congr fun py => and_congr_right fun hpy =>
      and_congr_left fun hon => ?_
    rw [htfb px hpx py hpy, hon, Bool.xor_true, Bool.not_eq_true']

end Sys2Proof.Machine

/-! ## The input family: the key skips, and the start of a key wait

EX9E and EXA1 are one `skipIf` behind the key operand, so they share the two ways the operand can turn out; FX0A writes MODE alone,
and its cycle adds the tick. -/

namespace Sys2Proof.Machine

variable {s : State} {x : Reg} {code : Fin 16} {k : ErrorKind}

/-! ### The key operand (spec/45_input.md R280) -/

theorem keyOf_of_code (h : (s.reg x).toNat = code.val) : keyOf s x = .ok code := by
  rcases keyOf_cases (s := s) (x := x) rfl with ⟨hge, -⟩ | ⟨hlt, hok⟩
  · have := code.isLt
    omega
  · exact hok.trans (congrArg Except.ok (Fin.ext h))

theorem keyOf_of_gt (h : 0x0F < (s.reg x).toNat) : keyOf s x = .error .keyRangeViolation := by
  rcases keyOf_cases (s := s) (x := x) rfl with ⟨-, he⟩ | ⟨hlt, -⟩
  · exact he
  · omega

/-! ### EX9E and EXA1 as executions (spec/45_input.md R281, R282) -/

theorem exec_skp_of_keyOf (h : keyOf s x = .ok code) : exec (.skp x) s = .next (s.skipIf (s.key code)) := by
  simp only [exec, execSkp, h, finish]

theorem exec_sknp_of_keyOf (h : keyOf s x = .ok code) : exec (.sknp x) s = .next (s.skipIf (!s.key code)) := by
  simp only [exec, execSknp, h, finish]

theorem exec_skp_of_keyOf_error (h : keyOf s x = .error k) : exec (.skp x) s = finish (.skp x) s (.error k) := by
  simp only [exec, execSkp, h]

theorem exec_sknp_of_keyOf_error (h : keyOf s x = .error k) : exec (.sknp x) s = finish (.sknp x) s (.error k) := by
  simp only [exec, execSknp, h]

/-! ### The obligations -/

/-- Settles O49: the key operand is the code in V[x] or the error; with a code both are a `skipIf`, on the key flag or on its
negation. -/
theorem keySkipsTestTheKeyInVx : Obligations.KeySkipsTestTheKeyInVx := by
  unfold Obligations.KeySkipsTestTheKeyInVx
  intro s x
  refine ⟨formatFS_toNat_pattern (by decide) x 0x9E, formatFS_toNat_pattern (by decide) x 0xA1, fun code hcode => ?_,
    fun hgt => ?_⟩
  · have hkey := keyOf_of_code hcode
    refine ⟨completes_of_skipIf (exec_skp_of_keyOf hkey) rfl, completes_of_skipIf (exec_sknp_of_keyOf hkey) ?_⟩
    cases s.key code <;> rfl
  · have hkey := keyOf_of_gt hgt
    exact ⟨aborts_of_finish_error (exec_skp_of_keyOf_error hkey), aborts_of_finish_error (exec_sknp_of_keyOf_error hkey)⟩

/-- Settles O50: the execution is a write of MODE, and the cycle that runs it is that write and the tick, which keeps MODE. -/
theorem keyWaitSuspendsTheEngine : Obligations.KeyWaitSuspendsTheEngine := by
  unfold Obligations.KeyWaitSuspendsTheEngine
  intro s x
  have hexec : exec (.ldVxK x) s = .next (s.setMode (.awaitingKey x)) := rfl
  have hframe := unchangedBut_setMode s (.awaitingKey x)
  refine ⟨formatFS_toNat_pattern (by decide) x 0x0A, ⟨_, hexec, rfl, hframe⟩, fun hm hf => ?_⟩
  have hstep := step_of_exec hm hf (decodeWord_encode (.ldVxK x)) hexec
  rw [endCycle_of_not_halted (by simp)] at hstep
  have hmode : (s.setMode (.awaitingKey x)).cycleTick.mode = .awaitingKey x := State.cycleTick_mode _
  exact ⟨_, cycleResult_awaitingKey hmode ▸ hostOp_cycle hstep, hmode, hframe.trans (unchangedBut_cycleTick _)⟩

end Sys2Proof.Machine

/-! ## The timer family: the moves to and from DT and ST, and the tick that follows a move

FX07 writes a register and FX15 and FX18 write a timer; the cycle of an instruction that goes to the next one is its execution and
then the tick, so a timer that was just set is counted down with the other. -/

namespace Sys2Proof.Machine

variable {s u : State} {i : Instr}

/-! ### Writes of a timer (spec/46_timers.md R301, R302) -/

theorem unchangedBut_setDt (s : State) (b : Byte) : UnchangedBut [.dt] s (s.setDt b) := by
  intro c hc
  cases c with
  | dt => simp at hc
  | _ => rfl

theorem unchangedBut_setSt (s : State) (b : Byte) : UnchangedBut [.st] s (s.setSt b) := by
  intro c hc
  cases c with
  | st => simp at hc
  | _ => rfl

/-! ### The timers after a cycle (spec/40_engine.md R127) -/

/-- The rule of `completedCycleTicksBothTimers` for a fetched instruction, as far as it speaks of the timers. -/
theorem step_timers_of_exec (hm : s.mode = .running) (hf : fetch s = .ok (encode i)) (he : exec i s = .next u)
    (hu : u.mode ≠ .halted) : ∃ t, step s = .next t ∧
      (s.params.timerCoupling = .perCycle → t.dt.toNat = u.dt.toNat - 1 ∧ t.st.toNat = u.st.toNat - 1) ∧
      (s.params.timerCoupling = .decoupled → t = u) := by
  obtain ⟨t, hstep, -, -, -, hper, hdec⟩ :=
    completedCycleTicksBothTimers s u (.inl ⟨hm, hu, encode i, i, hf, decodeWord_encode i, he⟩)
  exact ⟨t, hstep, hper, hdec⟩

/-! ### The obligations -/

/-- Settles O52: the execution sets the timer and leaves the engine Running, so the cycle ends in the tick on the state it
leaves. -/
theorem timerSetIsTickedInTheSameCycle : Obligations.TimerSetIsTickedInTheSameCycle := by
  unfold Obligations.TimerSetIsTickedInTheSameCycle
  intro s x hm
  refine ⟨fun hf => ?_, fun hf => ?_⟩
  · obtain ⟨t, hstep, hper, hdec⟩ := step_timers_of_exec hm hf (u := (s.setDt (s.reg x)).next) rfl (by simp [hm])
    exact ⟨t, hstep, fun hc => (hper hc).1, fun hc => congrArg State.dt (hdec hc)⟩
  · obtain ⟨t, hstep, hper, hdec⟩ := step_timers_of_exec hm hf (u := (s.setSt (s.reg x)).next) rfl (by simp [hm])
    exact ⟨t, hstep, fun hc => (hper hc).2, fun hc => congrArg State.st (hdec hc)⟩

/-- Settles O51: each is one write, of V[x] or of a timer, and then `next()`. -/
theorem timerMoves : Obligations.TimerMoves := by
  unfold Obligations.TimerMoves
  intro s x
  refine ⟨⟨formatFS_toNat_pattern (by decide) x 0x07, formatFS_toNat_pattern (by decide) x 0x15,
      formatFS_toNat_pattern (by decide) x 0x18⟩, completes_of_setReg rfl, ⟨_, rfl, rfl, rfl, ?_⟩, ⟨_, rfl, rfl, rfl, ?_⟩⟩
  · exact (unchangedBut_setDt s (s.reg x)).trans (unchangedBut_jump _ _)
  · exact (unchangedBut_setSt s (s.reg x)).trans (unchangedBut_jump _ _)

end Sys2Proof.Machine

/-! ## The exception family: the errors an instruction can raise, and what executing it does to MODE

`Executes` leaves the kind of an error open; `Ends` names it by the table of spec/60_exceptions.md R322 and splits the rest by
MODE. -/

namespace Sys2Proof.Machine

variable {s : State} {i : Instr}

/-! ### The ends of an execution -/

/-- The answers to executing `i` in `s`, by what they do to MODE. -/
inductive Ends (s : State) (i : Instr) : Answer → Prop
  /-- An error listed for `i`, taken (spec/60_exceptions.md R322). -/
  | raises {k : ErrorKind} (hk : k ∈ errorsOf i) : Ends s i (.next (s.abort k (some (encode i))))
  /-- The wait of FX0A (spec/45_input.md R283). -/
  | suspends (x : Reg) (hi : i = .ldVxK x) : Ends s i (.next (s.setMode (.awaitingKey x)))
  /-- Completion, with the engine as it was. -/
  | keepsMode {t : State} (hmode : t.mode = s.mode) : Ends s i (.next t)

theorem Ends.of_popJump (s : State) : Ends s .ret (finish .ret s s.popJump) := by
  rcases State.popJump_cases (s := s) rfl with ⟨-, he⟩ | ⟨_, _, _, he⟩ <;> rw [he]
  · exact .raises (by simp [errorsOf])
  · exact .keepsMode rfl

theorem Ends.of_push (nnn : Addr) (s : State) : Ends s (.call nnn) (exec (.call nnn) s) := by
  rcases State.push_cases (s := s) (a := returnAddr s) rfl with ⟨-, he⟩ | ⟨_, he⟩
  · rw [exec_call_of_push_error he]; exact .raises (by simp [errorsOf])
  · rw [exec_call_of_push he]; exact .keepsMode rfl

/-- The stores of FX33 and FX55 can fail by their address or by the glyph policy. -/
theorem Ends.of_storeAtI {bytes : List Byte} (haddr : .addressViolation ∈ errorsOf i)
    (hglyph : .glyphWriteViolation ∈ errorsOf i) : Ends s i (finish i s (storeAtI bytes s)) := by
  cases hw : writeBytes s (effectiveAddr s 0) bytes with
  | error k =>
    rw [storeAtI, hw]
    rcases writeBytes_error hw with rfl | rfl
    · exact .raises haddr
    · exact .raises hglyph
  | ok u =>
    rw [storeAtI_of_writeBytes hw]
    obtain ⟨m, rfl⟩ := writeBytes_mem_only hw
    exact .keepsMode rfl

theorem keyOf_error {x : Reg} {k : ErrorKind} (h : keyOf s x = .error k) : k = .keyRangeViolation := by
  rcases keyOf_cases h with ⟨-, he⟩ | ⟨_, he⟩ <;> cases he
  rfl

/-- Every execution is one of `Ends`. -/
theorem ends_of_exec (i : Instr) (s : State) : Ends s i (exec i s) := by
  cases i with
  | ret => exact .of_popJump s
  | call nnn => exact .of_push nnn s
  | ldB | ldMemVx => exact .of_storeAtI (by simp [errorsOf]) (by simp [errorsOf])
  | drw x y n =>
    cases hr : readBytes s (effectiveAddr s 0) n.val with
    | error k => rw [exec_drw_of_readBytes_error hr, (readBytes_error hr).1]; exact .raises (by simp [errorsOf])
    | ok rows => rw [exec_drw_of_readBytes hr]; exact .keepsMode rfl
  | ldVxMem x =>
    cases hr : readBytes s (effectiveAddr s 0) (x.val + 1) with
    | error k => rw [exec_ldVxMem_of_readBytes_error hr, (readBytes_error hr).1]; exact .raises (by simp [errorsOf])
    | ok bs =>
      obtain ⟨v, hv⟩ := State.setRegs_v_only bs s 0
      rw [exec_ldVxMem_of_readBytes hr, hv]
      exact .keepsMode rfl
  | skp x =>
    cases hk : keyOf s x with
    | error k => rw [exec_skp_of_keyOf_error hk, keyOf_error hk]; exact .raises (by simp [errorsOf])
    | ok code => rw [exec_skp_of_keyOf hk]; exact .keepsMode (s.skipIf_mode _)
  | sknp x =>
    cases hk : keyOf s x with
    | error k => rw [exec_sknp_of_keyOf_error hk, keyOf_error hk]; exact .raises (by simp [errorsOf])
    | ok code => rw [exec_sknp_of_keyOf hk]; exact .keepsMode (s.skipIf_mode _)
  | ldVxK x => exact .suspends x rfl
  | seImm | sneImm | seReg | sneReg => exact .keepsMode (s.skipIf_mode _)
  | _ => exact .keepsMode rfl

/-! ### The obligations -/

/-- Settles O15: of the ends of an execution only a listed error, taken, halts an engine that was not Halted. -/
theorem instructionRaisesOnlyListedErrors : Obligations.InstructionRaisesOnlyListedErrors := by
  unfold Obligations.InstructionRaisesOnlyListedErrors
  intro i s t hs h ht
  cases h ▸ ends_of_exec i s with
  | @raises k hk => exact ⟨k, hk, rfl, unchangedBut_abort s k _⟩
  | suspends x => cases ht
  | keepsMode hmode => exact absurd (hmode.symm.trans ht) hs

/-- Settles O24: the ends of an execution are an error, which halts, the wait of FX0A, and those that keep MODE. -/
theorem onlyKeyWaitSuspends : Obligations.OnlyKeyWaitSuspends := by
  unfold Obligations.OnlyKeyWaitSuspends
  intro i s t h
  cases h ▸ ends_of_exec i s with
  | raises => exact .inr (.inr rfl)
  | suspends x hi => exact .inl ⟨x, hi, rfl⟩
  | keepsMode hmode => exact .inr (.inl hmode)

end Sys2Proof.Machine

/-! ## The reset family: what `reset()` leaves

`resetOp` empties the list of memory, so every address reads as its reset contents under the parameters that the machine keeps; the
machine right after reset is itself such a state. -/

namespace Sys2Proof.Machine

/-! ### Memory after a reset (spec/20_memory.md R60, R61) -/

theorem resetByte_of_lt {g : Vector Byte Config.glyphSize} {a : Nat} (h : a < Config.glyphSize) : resetByte g a = g[a] := dif_pos h

theorem resetByte_of_le {g : Vector Byte Config.glyphSize} {a : Nat} (h : Config.glyphSize ≤ a) : resetByte g a = 0 :=
  dif_neg (Nat.not_lt.mpr h)

theorem resetOp_byteAt (s : State) (a : Nat) : (resetOp s).byteAt a = resetByte s.params.glyphTable a := rfl

/-! ### The reset state (spec/70_reset_and_hazards.md R360) -/

theorem resetOp_reset : resetOp State.reset = State.reset := rfl

theorem atReset_resetOp (s : State) : AtReset (resetOp s) where
  glyphs := fun a h => (resetOp_byteAt s a).trans (resetByte_of_lt h)
  zeroes := fun a h _ => (resetOp_byteAt s a).trans (resetByte_of_le h)
  regs := fun x => Vector.getElem_replicate x.isLt
  i := rfl
  pc := rfl
  stack := fun _ h => Vector.getElem_replicate h
  sp := rfl
  dt := rfl
  st := rfl
  keys := fun k => Vector.getElem_replicate k.isLt
  fb := fun px _ py _ => FrameBuffer.pixel_clear px py
  fbChanged := rfl
  mode := rfl
  err := rfl

/-! ### The obligation -/

/-- Settles O16: `reset()` answers `resetOp` in every MODE, and the machine right after reset is what it leaves of itself. -/
theorem resetLeavesTheSpecifiedState : Obligations.ResetLeavesTheSpecifiedState := by
  unfold Obligations.ResetLeavesTheSpecifiedState
  exact ⟨resetOp_reset ▸ atReset_resetOp State.reset, fun s => ⟨resetOp s, rfl, atReset_resetOp s⟩⟩

end Sys2Proof.Machine
